-- ==== Sys2Proof/Word.lean ====
section
/-! DEFINITION. The words of the block and their plainest arithmetic (spec/00_scope.md R15, R19; 30_encoding.md R130). -/

namespace Sys2Proof

/-- One byte of the stream buffer. -/
abbrev Byte := BitVec 8

/-- A command word, a response word or a port register: 32 bits (30 R130, 10 R66, R75). -/
abbrev Word := BitVec 32

/-- A transceiver register value. DATA_BITS is a parameter between 10 and 16 (00 R13), so a value is held in 16 bits of
which only the low DATA_BITS are ever nonzero (log 11). -/
abbrev RegVal := BitVec 16

/-- A half index h, 0 or 1 (00 R20). -/
abbrev Half := Fin 2

/-- A serial-bus frame. FRAME_BITS is a parameter with no upper bound (00 R13), so a frame is the unsigned number its
bits spell (00 R15; log 11). -/
abbrev Frame := Nat

/-- `mask(n) = 2ⁿ - 1` (00 R15). -/
abbrev mask (n : Nat) : Nat := 2 ^ n - 1

end Sys2Proof
end

