-- ==== Sys2Proof/Syntax.lean ====
section
/-! DEFINITION. The twelve commands of spec/opcode_table.json (30_encoding.md R138), one constructor per row. -/

namespace Sys2Proof

/-- A command, as the opcode map selects it. A code operand keeps all four bits of its field, reserved codes
included: the row's mask leaves them free (30 R138), and the command itself raises ILLEGAL_OPERAND on a reserved code
(41 R222, R230). An index keeps all eight bits: N_REGS is checked by the command (40 R182). -/
inductive Instr where
  /-- INIT (42 R270). -/
  | init
  /-- SET_MODE m (41 R230). -/
  | setMode (code : BitVec 4)
  /-- GET_MODE (41 R240). -/
  | getMode
  /-- SET_POWER p (41 R222). -/
  | setPower (code : BitVec 4)
  /-- GET_POWER (41 R225). -/
  | getPower
  /-- REG_WRITE i, v (40 R190). -/
  | regWrite (idx : BitVec 8) (val : BitVec 16)
  /-- REG_READ i (40 R195). -/
  | regRead (idx : BitVec 8)
  /-- REG_SET i, v (40 R200). -/
  | regSet (idx : BitVec 8) (val : BitVec 16)
  /-- REG_FLUSH (40 R205). -/
  | regFlush
  /-- SCHED_STEP (42 R280, R281). -/
  | schedStep
  /-- QUERY_START (42 R290). -/
  | queryStart
  /-- GET_STATUS (42 R292). -/
  | getStatus
deriving DecidableEq, Repr

end Sys2Proof
end

