-- ==== Sys2Proof/Decode.lean ====
section
/-! DEFINITION. Command words (spec/30_encoding.md): the fields of R130, the decoder of R138 to R140 with the first two
verdicts of R141, the encoder of R163, and the host's `decodeTableWord`. -/

namespace Sys2Proof

/-- Why a word is no command (30 R139, R140). -/
inductive DecodeError where
  /-- The opcode is reserved (R139). -/
  | illegalOpcode
  /-- A must-be-zero field of a valid opcode is nonzero (R140). -/
  | illegalOperand
deriving DecidableEq, Repr

/-- The answer of the decoder: a command, or the reason there is none. -/
inductive Decoded where
  | instr (i : Instr)
  | bad (e : DecodeError)
deriving DecidableEq, Repr

/-- opcode = w[31:28] (30 R130). -/
def opcodeOf (w : Word) : BitVec 4 := w.extractLsb' 28 4

/-- sub = w[27:24] (30 R130). -/
def subOf (w : Word) : BitVec 4 := w.extractLsb' 24 4

/-- index = w[23:16] (30 R130). -/
def indexOf (w : Word) : BitVec 8 := w.extractLsb' 16 8

/-- value = w[15:0] (30 R130). -/
def valueOf (w : Word) : BitVec 16 := w.extractLsb' 0 16

/-- Format N: no operand, so sub, index and value must be zero (30 R131). -/
def formatN (w : Word) (i : Instr) : Decoded :=
  if subOf w = 0 ∧ indexOf w = 0 ∧ valueOf w = 0 then .instr i else .bad .illegalOperand

/-- Format M: a code in sub, so index and value must be zero (30 R131). -/
def formatM (w : Word) (mk : BitVec 4 → Instr) : Decoded :=
  if indexOf w = 0 ∧ valueOf w = 0 then .instr (mk (subOf w)) else .bad .illegalOperand

/-- Format I: an index, so sub and value must be zero (30 R131). -/
def formatI (w : Word) (mk : BitVec 8 → Instr) : Decoded :=
  if subOf w = 0 ∧ valueOf w = 0 then .instr (mk (indexOf w)) else .bad .illegalOperand

/-- Format IV: an index and a value, so sub must be zero (30 R131). -/
def formatIV (w : Word) (mk : BitVec 8 → BitVec 16 → Instr) : Decoded :=
  if subOf w = 0 then .instr (mk (indexOf w) (valueOf w)) else .bad .illegalOperand

/-- The opcode map (30 R138). Reserved opcodes 0x0 and 0xD to 0xF have no command (R139). -/
def decode (w : Word) : Decoded :=
  match (opcodeOf w).toNat with
  | 0x1 => formatN w .init
  | 0x2 => formatM w .setMode
  | 0x3 => formatN w .getMode
  | 0x4 => formatM w .setPower
  | 0x5 => formatN w .getPower
  | 0x6 => formatIV w .regWrite
  | 0x7 => formatI w .regRead
  | 0x8 => formatIV w .regSet
  | 0x9 => formatN w .regFlush
  | 0xA => formatN w .schedStep
  | 0xB => formatN w .queryStart
  | 0xC => formatN w .getStatus
  | _ => .bad .illegalOpcode

/-- The four fields of a command word side by side, the opcode highest (30 R130). -/
def joinFields (opcode sub : BitVec 4) (index : BitVec 8) (value : BitVec 16) : Word :=
  opcode ++ sub ++ index ++ value

/-- The encoding function of 30 R163: each absent operand is 0. -/
def encode (i : Instr) : Word :=
  match i with
  | .init => joinFields 0x1 0 0 0
  | .setMode code => joinFields 0x2 code 0 0
  | .getMode => joinFields 0x3 0 0 0
  | .setPower code => joinFields 0x4 code 0 0
  | .getPower => joinFields 0x5 0 0 0
  | .regWrite idx val => joinFields 0x6 0 idx val
  | .regRead idx => joinFields 0x7 0 idx 0
  | .regSet idx val => joinFields 0x8 0 idx val
  | .regFlush => joinFields 0x9 0 0 0
  | .schedStep => joinFields 0xA 0 0 0
  | .queryStart => joinFields 0xB 0 0 0
  | .getStatus => joinFields 0xC 0 0 0

/-- A word is response-producing iff its opcode field is 0x3, 0x5, 0x7, 0xB or 0xC. The test uses the opcode field
only (42 R261). -/
def responseProducing (w : Word) : Bool :=
  opcodeOf w == 0x3 || opcodeOf w == 0x5 || opcodeOf w == 0x7 || opcodeOf w == 0xB || opcodeOf w == 0xC

/-- The command in a decoder's answer, if there is one. -/
def Decoded.toOption (d : Decoded) : Option Instr :=
  match d with
  | .instr i => some i
  | .bad _ => none

/-- The command word of an opcode-table row whose low `nbits` bits are `w`, every higher bit 0. A command is one whole
32-bit word (30 R133), so no byte order enters. -/
def tableWord (nbits w : Nat) : Word := BitVec.ofNat 32 (w % 2 ^ nbits)

/-- What the decoder reads from a row's word (the host's question). -/
def decodeTableWord (nbits w : Nat) : Option Instr := (decode (tableWord nbits w)).toOption

end Sys2Proof
end

