-- ==== Sys2Proof/Config.lean ====
section
/-! DEFINITION. What one build of the block fixes (the OPEN parameters of spec/00_scope.md R13), the reference
configuration of R14, and the free values (00 R18 `draw`), which have no body. -/

namespace Sys2Proof

/-- The chip model that answers bus reads (40_register_bus.md R186). -/
inductive ChipModel where
  | oracle
  | echo
deriving DecidableEq, Repr

/-- The OPEN parameters of 00 R13, in the table's order. SAMPLE_RATE and BUS_TIMING are left out: no rule reads them
(00 R13, R4 (4); 70 R385). WORD_BYTES is fixed at 4. -/
structure Config where
  /-- CAP: capacity of the stream buffer in bytes. -/
  cap : Nat
  /-- TICK_BYTES: bytes moved per tick. -/
  tickBytes : Nat
  /-- RX_MARGIN: RX start distance from the end of the buffer. -/
  rxMargin : Nat
  /-- PORT_WORDS: number of port registers. -/
  portWords : Nat
  /-- PRIME_SLOT[0]. -/
  primeSlot0 : Nat
  /-- PRIME_SLOT[1]. -/
  primeSlot1 : Nat
  /-- N_REGS: transceiver registers in the RegisterFile. -/
  nRegs : Nat
  /-- DATA_BITS: register value width. -/
  dataBits : Nat
  /-- FRAME_BITS: bus frame width. -/
  frameBits : Nat
  /-- INDEX_SHIFT: bit offset of the index field. -/
  indexShift : Nat
  /-- INDEX_BITS: width of the index field. -/
  indexBits : Nat
  /-- READ_FLAG_BIT: position of the read flag. -/
  readFlagBit : Nat
  /-- REG_DEFAULTS: cache contents at reset. -/
  regDefaults : List RegVal
  /-- CHIP_RESPONSE. -/
  chipResponse : ChipModel
  /-- USBQ_DEPTH: capacity of each USB descriptor queue. -/
  usbqDepth : Nat
  /-- CMD_DEPTH: command FIFO capacity. -/
  cmdDepth : Nat
  /-- RSP_DEPTH: response FIFO capacity. -/
  rspDepth : Nat
deriving DecidableEq, Repr

/-- HALF = CAP/2 (00 R13, R14). -/
def Config.half (c : Config) : Nat := c.cap / 2

/-- WORD_BYTES, fixed at 4 (00 R13). -/
def Config.wordBytes : Nat := 4

/-- The reference configuration of 00 R14, with CHIP_RESPONSE at its default ORACLE (log 1: the values of
`State.reset`'s build are a DESIGN CHOICE; the bus values are the spec's own general knowledge, 93 I1). -/
def Config.reference : Config where
  cap := 16384
  tickBytes := 32
  rxMargin := 32
  portWords := 2
  primeSlot0 := 0
  primeSlot1 := 1
  nRegs := 32
  dataBits := 10
  frameBits := 16
  indexShift := 10
  indexBits := 5
  readFlagBit := 15
  regDefaults := List.replicate 32 0
  chipResponse := .oracle
  usbqDepth := 4
  cmdDepth := 16
  rspDepth := 16

/-- The k-th drawn byte of a run: a free value with no body (00 R18 `draw`; log 4). -/
opaque Config.freeByte : Nat → Byte

/-- The bits of the k-th drawn bus frame of a run, before they are cut to FRAME_BITS: a free value with no body
(40 R186; log 4). -/
opaque Config.freeFrame : Nat → Nat

end Sys2Proof
end

