-- ==== Sys2Proof/Machine/State.lean ====
section
/-! DEFINITION. The architectural state of the block (spec/10_state.md), as plain data, and the state after reset
(spec/70_reset_and_hazards.md R360 to R373). -/

namespace Sys2Proof.Machine

/-- SEQ: the Sequencer's control state (10 R40). -/
inductive Seq where
  | idle
  | step2
  | halted
deriving DecidableEq, Repr

/-- MODE: the TransceiverMode (10 R41). Code 3 is never held, so it has no constructor. -/
inductive Mode where
  | off
  | rx
  | tx
deriving DecidableEq, Repr

/-- The target states of the power-rail state machine (41 R220). -/
inductive Power where
  | shutdown
  | standby
  | transmit
  | receive
deriving DecidableEq, Repr

/-- The three power-rail lines, in the bit order of LINES (10 R42). -/
inductive Line where
  | en
  | txen
  | rxen
deriving DecidableEq, Repr

/-- Direction of a transfer, named from the host (00 R20). -/
inductive Dir where
  | inn
  | out
deriving DecidableEq, Repr

/-- Kind of a transfer (10 R71). Only FILL carries a completion notification. -/
inductive Kind where
  | stream
  | fill
deriving DecidableEq, Repr

/-- A TransferDescriptor (10 R71). -/
structure Descriptor where
  dir : Dir
  half : Half
  kind : Kind
  epoch : Nat
  tainted : Bool
deriving DecidableEq, Repr

/-- The causes of a fault the block takes (60 R320). -/
inductive FaultCode where
  | illegalOpcode
  | illegalOperand
  | badIndex
  | notInitialized
  | streamOff
  | fillPending
  | queueOverflow
  | alreadyInitialized
deriving DecidableEq, Repr

/-- The event kinds of the event history (10 R85). -/
inductive Event where
  /-- The Sequencer took command w. -/
  | cmd (w : Word)
  /-- A response was pushed. -/
  | resp (w : Word)
  /-- One power-rail line was driven (41 R221). -/
  | lineWrite (line : Line) (level : Bool)
  /-- One bus transaction; rx is 0 for a write (40 R184). -/
  | busFrame (tx rx : Frame)
  /-- Every port register was cleared (41 R235). -/
  | portClear
  /-- A priming write (42 R303). -/
  | portWrite (slot : Nat) (word : Word)
  /-- A descriptor was pushed. -/
  | schedule (d : Descriptor)
  /-- CLK_EN was written by a mode change, an entry or a fill completion. -/
  | clockEnable (v : Bool)
  /-- An RX tick at offset o. -/
  | portIn (o : Nat) (bytes : List Byte)
  /-- A TX tick at offset o. -/
  | portOut (o : Nat) (bytes : List Byte)
  /-- An xrun tick at offset o in half h (42 R311). -/
  | xrun (o : Nat) (h : Half)
  /-- The data of an IN completion. -/
  | hostRx (d : Descriptor) (bytes : List Byte)
  /-- The data of an OUT completion. -/
  | hostTx (d : Descriptor) (bytes : List Byte)
  /-- A completion; acted iff it had an effect on scheduler state. -/
  | complete (d : Descriptor) (acted : Bool)
  /-- A fault was raised (60 R325). -/
  | fault (code : FaultCode) (w : Word)
deriving DecidableEq, Repr

/-- One move of the interleaving: whose step comes next (00 R5 to R9; log 2), with what the environment supplies to that
step (log 5). -/
inductive Turn where
  /-- The Sequencer's step. -/
  | sequencer
  /-- A sample-clock tick; the RF side supplies these bytes in RX. -/
  | tick (samples : List Byte)
  /-- Completion of the head IN descriptor. -/
  | usbIn
  /-- Completion of the head OUT descriptor; the host supplies these bytes. -/
  | usbOut (bytes : List Byte)
  /-- The host pushes one command word. -/
  | hostPush (w : Word)
  /-- The host pops one response word. -/
  | hostPop
  /-- The host asserts reset. -/
  | hostReset
deriving DecidableEq, Repr

/-- Why the model stops with a fault. The faults the block itself TAKES (60 R320) are next states, not these. -/
inductive Fault where
  /-- Raised by a tick while OFFSET ≥ CAP: half_of is undefined there (00 R20). Safe: the model stops, and no state a
  run reaches does it (10 R55 (c)). Log 10. -/
  | tickOutsideBuffer
deriving DecidableEq, Repr

/-- Why the model refuses. -/
inductive Refusal where
  /-- Raised by an arm of exec whose instruction has no meaning yet; no arm does. Safe. -/
  | notModelled (mnemonic : String)
  /-- Raised by step when the configuration is ill-formed: "A model refuses an ill-formed configuration" (00 R14,
  70 R375). Safe. -/
  | illFormedConfig
deriving DecidableEq, Repr

/-- Byte storage: the defined bytes by strictly rising address. An unlisted byte is undefined (10 R65; log 6). -/
abbrev Memory := List Host.Cell

/-- The block's state. Every field but `cfg`, `agenda` and `draws` is a state element of 10_state.md. -/
structure State where
  /-- The build's parameters (00 R13); no step writes them (log 1). -/
  cfg : Config
  /-- SEQ (10 R40). -/
  seq : Seq
  /-- MODE (10 R41). -/
  mode : Mode
  /-- LINES: bit 0 EN, bit 1 TXEN, bit 2 RXEN (10 R42). -/
  lines : BitVec 3
  /-- OFFSET (10 R43). -/
  offset : BitVec 20
  /-- PHASE (10 R44). -/
  phase : Half
  /-- CLK_EN (10 R45). -/
  clkEn : Bool
  /-- FILL_PENDING (10 R46). -/
  fillPending : Bool
  /-- BUF_READY (10 R47). -/
  bufReady : Bool
  /-- FAULT_CODE (10 R48). -/
  faultCode : BitVec 4
  /-- FAULT_WORD (10 R49). -/
  faultWord : Word
  /-- EPOCH (10 R50). -/
  epoch : Nat
  /-- XRUN_COUNT (10 R51). -/
  xrunCount : BitVec 32
  /-- CACHE (10 R60). -/
  cache : List RegVal
  /-- DIRTY (10 R61). -/
  dirty : List Bool
  /-- BUF: the defined bytes of the stream buffer, by rising address; an unlisted byte is undefined (10 R65; log 6). -/
  buf : Memory
  /-- PORT: `none` is the spec's own value "undefined" (10 R66; log 7). -/
  port : List (Option Word)
  /-- INQ: device→host transfers, oldest first (10 R70). -/
  inq : List Descriptor
  /-- OUTQ: host→device transfers, oldest first (10 R70). -/
  outq : List Descriptor
  /-- CMDQ, oldest first (10 R75). -/
  cmdq : List Word
  /-- RSPQ, oldest first (10 R75). -/
  rspq : List Word
  /-- CHIPREG, the ECHO chip's registers; `none` is the spec's own value "undefined" (10 R78; log 7). -/
  chipreg : List (Option RegVal)
  /-- The event history, oldest first (10 R85). -/
  events : List Event
  /-- The turns still to come; when none is left it is the Sequencer's turn (log 2). -/
  agenda : List Turn
  /-- How many draws the run has made: the next draw's number (log 4). -/
  draws : Nat
deriving DecidableEq, Repr

/-- The state right after reset of a block built with configuration `c` (70 R361 to R373), with the chip's registers
as they are before any write (10 R78), no turn to come and no draw made (logs 2 and 4). -/
def State.resetWith (c : Config) : State where
  cfg := c
  seq := .idle
  mode := .off
  lines := 0
  offset := 0
  phase := 0
  clkEn := false
  fillPending := false
  bufReady := false
  faultCode := 0
  faultWord := 0
  epoch := 0
  xrunCount := 0
  cache := c.regDefaults
  dirty := List.replicate c.nRegs true
  buf := []
  port := List.replicate c.portWords none
  inq := []
  outq := []
  cmdq := []
  rspq := []
  chipreg := List.replicate c.nRegs none
  events := []
  agenda := []
  draws := 0

/-- The machine right after reset (70 R373), built with the reference configuration of 00 R14 (log 1). -/
def State.reset : State := State.resetWith Config.reference

/-- What a command, a step or an agent's step answers. -/
abbrev Answer := Host.Outcome State Fault Refusal

end Sys2Proof.Machine
end

