-- ==== Sys2Proof/Machine/Operands.lean ====
section
/-! DEFINITION. Operand forms and word formats: mode and power codes (spec/30_encoding.md R132, R134), register indices
and values, response words (R142 to R147), bus frames (R150 to R153), and half geometry (00_scope.md R20). -/

namespace Sys2Proof.Machine

/-- The mode a SET_MODE code names; codes 3..15 are reserved (30 R134). -/
def modeOfCode (code : BitVec 4) : Option Mode :=
  match code.toNat with
  | 0 => some .off
  | 1 => some .rx
  | 2 => some .tx
  | _ => none

/-- The code of a mode (10 R41). -/
def modeCode (m : Mode) : BitVec 2 :=
  match m with
  | .off => 0
  | .rx => 1
  | .tx => 2

/-- The power state a SET_POWER code names; codes 4..15 are reserved (30 R134). -/
def powerOfCode (code : BitVec 4) : Option Power :=
  match code.toNat with
  | 0 => some .shutdown
  | 1 => some .standby
  | 2 => some .transmit
  | 3 => some .receive
  | _ => none

/-- power_of: the power state derived from a mode (41 R226). -/
def powerOf (m : Mode) : Power :=
  match m with
  | .off => .shutdown
  | .rx => .receive
  | .tx => .transmit

/-- The bit of LINES that holds a line (10 R42). -/
def lineBit (l : Line) : Nat :=
  match l with
  | .en => 0
  | .txen => 1
  | .rxen => 2

/-- The power code GET_POWER decodes from the lines; 4 is INVALID (41 R225). -/
def powerCodeOfLines (l : BitVec 3) : BitVec 4 :=
  match l.toNat with
  | 0b000 => 0
  | 0b001 => 1
  | 0b011 => 2
  | 0b101 => 3
  | _ => 4

/-- A register index is legal iff it is below N_REGS (30 R132, 40 R182). -/
def indexOk (c : Config) (idx : BitVec 8) : Bool := decide (idx.toNat < c.nRegs)

/-- A value masked to DATA_BITS (30 R132). -/
def maskValue (c : Config) (val : BitVec 16) : RegVal := BitVec.ofNat 16 (val.toNat &&& mask c.dataBits)

/-- wframe(i, v) (30 R151). -/
def wframe (c : Config) (i : Nat) (v : RegVal) : Frame := (i <<< c.indexShift) ||| (v.toNat &&& mask c.dataBits)

/-- rframe(i) (30 R152). -/
def rframe (c : Config) (i : Nat) : Frame := (1 <<< c.readFlagBit) ||| (i <<< c.indexShift)

/-- The value a read response frame carries (30 R153). -/
def extractValue (c : Config) (resp : Frame) : RegVal := BitVec.ofNat 16 (resp &&& mask c.dataBits)

/-- The frame an ECHO chip answers: its register in the low DATA_BITS bits, drawn bits above (40 R186). -/
def echoFrame (c : Config) (drawn : Frame) (v : RegVal) : Frame :=
  ((drawn >>> c.dataBits) <<< c.dataBits) ||| (v.toNat &&& mask c.dataBits)

/-- A drawn response frame, cut to FRAME_BITS bits (40 R186). -/
def drawnFrame (c : Config) (k : Nat) : Frame := Config.freeFrame k &&& mask c.frameBits

/-- half_of(o), for o < CAP (00 R20). -/
def halfOf (c : Config) (o : Nat) : Half := if o < c.half then 0 else 1

/-- The first byte of a half (00 R20). -/
def halfBase (c : Config) (h : Half) : Nat := h.val * c.half

/-- le32(b0, b1, b2, b3) = {b3, b2, b1, b0} (00 R17). -/
def le32 (b0 b1 b2 b3 : Byte) : Word := b3 ++ b2 ++ b1 ++ b0

/-- GET_MODE response (30 R143). -/
def modeResponse (m : Mode) : Word := (modeCode m).zeroExtend 32

/-- GET_POWER response: r[3:0] the decoded code, r[6:4] = LINES[2:0] (30 R144). -/
def powerResponse (l : BitVec 3) : Word := (0 : BitVec 25) ++ l ++ powerCodeOfLines l

/-- REG_READ response (30 R145). -/
def readResponse (v : RegVal) : Word := v.zeroExtend 32

/-- QUERY_START response (30 R146). -/
def queryResponse (b : Bool) : Word := (BitVec.ofBool b).zeroExtend 32

/-- GET_STATUS response (30 R147, 42 R292). -/
def statusResponse (count : BitVec 6) (m : Mode) (bufReady fillPending clkEn : Bool) (phase : Half)
    (offset : BitVec 20) : Word :=
  count ++ modeCode m ++ BitVec.ofBool bufReady ++ BitVec.ofBool fillPending ++ BitVec.ofBool clkEn ++
    BitVec.ofNat 1 phase.val ++ offset

end Sys2Proof.Machine
end

