-- ==== Sys2Proof/Machine/Flags.lean ====
section
/-! DEFINITION. The status flags and counters of spec/10_state.md R80, and the predicates that read them: when a half is
owed (42 R280, R281), when streaming may start (R290), when a tick is an xrun (R311), how the counters saturate. -/

namespace Sys2Proof.Machine

/-- The streaming-start predicate: MODE ≠ OFF and FILL_PENDING = 0 (42 R290). -/
def startReady (s : State) : Bool := s.mode != .off && !s.fillPending

/-- Half 0 is owed: OFFSET ≥ HALF and PHASE = 1 (42 R280). -/
def owedHalf0 (s : State) : Bool := decide (s.cfg.half ≤ s.offset.toNat) && s.phase == 1

/-- Half 1 is owed: OFFSET < HALF and PHASE = 0 (42 R281). -/
def owedHalf1 (s : State) : Bool := decide (s.offset.toNat < s.cfg.half) && s.phase == 0

/-- A descriptor queue holds USBQ_DEPTH descriptors (42 R282). -/
def queueFull (c : Config) (q : List Descriptor) : Bool := decide (c.usbqDepth ≤ q.length)

/-- RSPQ holds RSP_DEPTH words (42 R261). -/
def rspFull (s : State) : Bool := decide (s.cfg.rspDepth ≤ s.rspq.length)

/-- CMDQ holds CMD_DEPTH words (00 R12). -/
def cmdFull (s : State) : Bool := decide (s.cfg.cmdDepth ≤ s.cmdq.length)

/-- Some descriptor of the queue, of any epoch, has half h (42 R311). -/
def halfInFlight (q : List Descriptor) (h : Half) : Bool := q.any fun d => d.half == h

/-- XRUN_COUNT after one more xrun: min(XRUN_COUNT + 1, 2³² - 1) (42 R311). -/
def bumpXrun (n : BitVec 32) : BitVec 32 := BitVec.ofNat 32 (min (n.toNat + 1) (2 ^ 32 - 1))

/-- The count GET_STATUS reports: min(XRUN_COUNT, 63) (42 R292). -/
def statusCount (n : BitVec 32) : BitVec 6 := BitVec.ofNat 6 (min n.toNat 63)

/-- `tainted ← 1` on every descriptor whose half is h (42 R312). -/
def taintHalf (q : List Descriptor) (h : Half) : List Descriptor :=
  q.map fun d => if d.half == h then { d with tainted := true } else d

/-- OFFSET after a tick at o: (o + TICK_BYTES) mod CAP (42 R310). -/
def nextOffset (c : Config) (o : Nat) : BitVec 20 := BitVec.ofNat 20 ((o + c.tickBytes) % c.cap)

end Sys2Proof.Machine
end

