-- ==== Sys2Proof/Machine/Ops.lean ====
section
/-! DEFINITION. The named operations over state: byte storage (spec/00_scope.md R17), draws and events (R18), the
register file and the bus (40_register_bus.md R183 to R186), the power-rail lines (41 R221), descriptors (10 R70),
taking a fault (60 R325) and reset, the only way out of one (60 R326, 70 R360). -/

namespace Sys2Proof.Machine

/-! ### Byte storage -/

/-- The canonical form of storage: addresses strictly rising. An unlisted byte is undefined and a listed one is defined,
so no entry equals what an unlisted address reads as. -/
abbrev Memory.wf (m : Memory) : Prop := (m.map Prod.fst).Pairwise (· < ·)

/-- What one byte holds: its value, or nothing where it is undefined (10 R65). -/
def byteAt (m : Memory) (a : Nat) : Option Byte :=
  match m with
  | [] => none
  | cell :: rest => if cell.1 = a then some cell.2 else byteAt rest a

/-- Bytes as cells at consecutive addresses. -/
def cellsFrom (a : Nat) (bytes : List Byte) : Memory :=
  match bytes with
  | [] => []
  | b :: rest => (a, b) :: cellsFrom (a + 1) rest

/-- MemWrite(a, n, bytes), n the number of bytes (00 R17). -/
def memWrite (m : Memory) (a : Nat) (bytes : List Byte) : Memory :=
  m.filter (fun cell => decide (cell.1 < a)) ++ cellsFrom a bytes ++
    m.filter (fun cell => decide (a + bytes.length ≤ cell.1))

/-- n drawn bytes, the first with number k (00 R18). -/
def drawBytes (k n : Nat) : List Byte := (List.range n).map fun j => Config.freeByte (k + j)

/-- MemRead(a, n), each undefined byte replaced by a draw; the draws are numbered from k (00 R17, 20 R95). -/
def memRead (m : Memory) (k a n : Nat) : List Byte :=
  (List.range n).map fun j => (byteAt m (a + j)).getD (Config.freeByte (k + j))

/-- n bytes from the environment: the ones it supplies, drawn ones where it supplies fewer (log 5). -/
def suppliedBytes (k n : Nat) (given : List Byte) : List Byte := given.take n ++ drawBytes k (n - given.length)

/-! ### Events, draws and responses -/

/-- emit E: append one event to the history (00 R18). -/
def emit (e : Event) (s : State) : State := { s with events := s.events ++ [e] }

/-- Count n draws, so that the next draw is fresh (log 4). -/
def countDraws (n : Nat) (s : State) : State := { s with draws := s.draws + n }

/-- respond(w) (00 R18). -/
def respond (w : Word) (s : State) : State := emit (.resp w) { s with rspq := s.rspq ++ [w] }

/-! ### Faults and reset -/

/-- The number of a fault cause (60 R320). -/
def faultNumber (f : FaultCode) : BitVec 4 :=
  match f with
  | .illegalOpcode => 1
  | .illegalOperand => 2
  | .badIndex => 3
  | .notInitialized => 4
  | .streamOff => 5
  | .fillPending => 6
  | .queueOverflow => 7
  | .alreadyInitialized => 8

/-- Fault entry during the execution of command word w (60 R325). -/
def raiseFault (f : FaultCode) (w : Word) (s : State) : State :=
  emit (.fault f w) { s with faultCode := faultNumber f, faultWord := w, seq := .halted }

/-- Reset: every block state element to its reset value, the chip's registers left alone (70 R360 to R372). The
environment's turns still to come and the draw counter go on (log 13). -/
def resetBlock (s : State) : State :=
  { State.resetWith s.cfg with chipreg := s.chipreg, agenda := s.agenda, draws := s.draws }

/-! ### The register file and the bus -/

/-- CACHE[i] (10 R60). -/
def cacheAt (s : State) (i : Nat) : RegVal := s.cache.getD i 0

/-- DIRTY[i] (10 R61). -/
def dirtyAt (s : State) (i : Nat) : Bool := s.dirty.getD i false

/-- CHIPREG[i] of the ECHO chip, nothing where it is undefined (10 R78). -/
def chipregAt (s : State) (i : Nat) : Option RegVal := s.chipreg.getD i none

/-- CACHE[i] ← v. -/
def setCache (i : Nat) (v : RegVal) (s : State) : State := { s with cache := s.cache.set i v }

/-- DIRTY[i] ← b. -/
def setDirty (i : Nat) (b : Bool) (s : State) : State := { s with dirty := s.dirty.set i b }

/-- Under ECHO the chip keeps what a write frame carries; under ORACLE there is no chip register (40 R183). -/
def chipStore (i : Nat) (v : RegVal) (s : State) : State :=
  match s.cfg.chipResponse with
  | .oracle => s
  | .echo => { s with chipreg := s.chipreg.set i (some (maskValue s.cfg v)) }

/-- bus_write(i, v) (40 R183). -/
def busWrite (i : Nat) (v : RegVal) (s : State) : State :=
  emit (.busFrame (wframe s.cfg i v) 0) (chipStore i v s)

/-- chip_answer(i): the response frame of the next bus read (40 R186). -/
def chipAnswer (s : State) (i : Nat) : Frame :=
  match s.cfg.chipResponse with
  | .oracle => drawnFrame s.cfg s.draws
  | .echo =>
    match chipregAt s i with
    | none => drawnFrame s.cfg s.draws
    | some v => echoFrame s.cfg (drawnFrame s.cfg s.draws) v

/-- What bus_read(i) leaves: one frame event, one draw counted (40 R185). -/
def busRead (i : Nat) (s : State) : State :=
  countDraws 1 (emit (.busFrame (rframe s.cfg i) (chipAnswer s i)) s)

/-- The value bus_read(i) returns (40 R185). -/
def busReadValue (s : State) (i : Nat) : RegVal := extractValue s.cfg (chipAnswer s i)

/-- The flush's turn at index i: if it is dirty, its frame, and then its flag cleared (40 R205). -/
def flushOne (s : State) (i : Nat) : State :=
  if dirtyAt s i then setDirty i false (busWrite i (cacheAt s i) s) else s

/-! ### The power-rail lines -/

/-- LINES with one line at a level. -/
def setLine (l : Line) (level : Bool) (lines : BitVec 3) : BitVec 3 :=
  if level then lines ||| ((1 : BitVec 3) <<< lineBit l) else lines &&& ~~~((1 : BitVec 3) <<< lineBit l)

/-- One single-line write and its event (41 R221). -/
def driveLine (l : Line) (level : Bool) (s : State) : State :=
  emit (.lineWrite l level) { s with lines := setLine l level s.lines }

/-- The writes of drive_lines(p), in order: clear before set, EN before TXEN or RXEN (41 R221). -/
def lineWrites (p : Power) : List (Line × Bool) :=
  match p with
  | .shutdown => [(.rxen, false), (.txen, false), (.en, false)]
  | .standby => [(.rxen, false), (.txen, false), (.en, true)]
  | .transmit => [(.rxen, false), (.en, true), (.txen, true)]
  | .receive => [(.txen, false), (.en, true), (.rxen, true)]

/-- drive_lines(p) (41 R221). -/
def driveLines (p : Power) (s : State) : State :=
  (lineWrites p).foldl (fun t w => driveLine w.1 w.2 t) s

/-! ### Descriptors -/

/-- The direction a mode streams in: IN for RX, OUT otherwise (42 R280). -/
def dirOf (m : Mode) : Dir :=
  match m with
  | .rx => .inn
  | .tx => .out
  | .off => .out

/-- The queue of a direction (10 R70). -/
def queueOf (s : State) (d : Dir) : List Descriptor :=
  match d with
  | .inn => s.inq
  | .out => s.outq

/-- push(Q, d) and its Schedule event, Q the queue of d's direction (42 R280). -/
def pushDescriptor (d : Descriptor) (s : State) : State :=
  match d.dir with
  | .inn => emit (.schedule d) { s with inq := s.inq ++ [d] }
  | .out => emit (.schedule d) { s with outq := s.outq ++ [d] }

/-- Schedule a STREAM transfer of half h in the mode's direction, and PHASE ← h (42 R280, R281). -/
def scheduleHalf (h : Half) (s : State) : State :=
  let d : Descriptor := { dir := dirOf s.mode, half := h, kind := .stream, epoch := s.epoch, tainted := false }
  { pushDescriptor d s with phase := h }

/-- Half h is USB-owned: the queue of the active direction holds a descriptor for it (10 R72). -/
def usbOwned (s : State) (h : Half) : Bool :=
  match s.mode with
  | .rx => halfInFlight s.inq h
  | .tx => halfInFlight s.outq h
  | .off => false

/-! ### The clock and the port -/

/-- CLK_EN ← v and its event. -/
def setClock (v : Bool) (s : State) : State := emit (.clockEnable v) { s with clkEn := v }

/-- Every port register ← 0, one PortClear event (41 R235). -/
def clearPort (s : State) : State := emit .portClear { s with port := List.replicate s.cfg.portWords (some 0) }

/-- One priming write: PORT[slot] ← word and its event (42 R303). -/
def writePort (slot : Nat) (word : Word) (s : State) : State :=
  emit (.portWrite slot word) { s with port := s.port.set slot (some word) }

/-- Priming word k: le32 of bytes 4k to 4k+3 of the buffer, read with draws numbered from n (42 R303, 20 R93; log 12). -/
def primeWord (m : Memory) (n k : Nat) : Word :=
  match memRead m (n + 4 * k) (4 * k) 4 with
  | [b0, b1, b2, b3] => le32 b0 b1 b2 b3
  | _ => 0

end Sys2Proof.Machine
end

