-- ==== Sys2Proof/Machine/Agents.lean ====
section
/-! DEFINITION. The steps of the autonomous agents: the sample clock's tick (spec/42_stream.md R310 to R313), the USB
completions (R300 to R305), and the host's moves on the command port (spec/00_scope.md R5, R12). An agent that is not
enabled has no step: its turn leaves the state as it is (log 8). -/

namespace Sys2Proof.Machine

/-! ### The sample clock -/

/-- xrun(o, h): the event and the saturating count (42 R311). -/
def countXrun (o : Nat) (h : Half) (s : State) : State :=
  let recorded := emit (.xrun o h) s
  { recorded with xrunCount := bumpXrun s.xrunCount }

/-- The data part of a tick in RX at offset o: the RF side's bytes go into the buffer, and an xrun also taints the half's
IN descriptors (42 R310, R312). -/
def tickRx (samples : List Byte) (o : Nat) (h : Half) (s : State) : State :=
  let b := suppliedBytes s.draws s.cfg.tickBytes samples
  let written := emit (.portIn o b) { s with buf := memWrite s.buf o b, draws := s.draws + s.cfg.tickBytes }
  if halfInFlight s.inq h then
    let counted := countXrun o h written
    { counted with inq := taintHalf s.inq h }
  else written

/-- The data part of a tick in TX at offset o: the half's bytes, or draws on an xrun (42 R310, R312). -/
def tickTx (o : Nat) (h : Half) (s : State) : State :=
  if halfInFlight s.outq h then
    emit (.portOut o (drawBytes s.draws s.cfg.tickBytes)) (countDraws s.cfg.tickBytes (countXrun o h s))
  else emit (.portOut o (memRead s.buf s.draws o s.cfg.tickBytes)) (countDraws s.cfg.tickBytes s)

/-- The data part of a tick; with MODE = OFF there is none (42 R310; log 10). -/
def tickData (samples : List Byte) (o : Nat) (h : Half) (s : State) : State :=
  match s.mode with
  | .off => s
  | .rx => tickRx samples o h s
  | .tx => tickTx o h s

/-- One tick, enabled iff CLK_EN = 1 (42 R310). Above the buffer half_of is undefined (00 R20; log 10). -/
def tickStep (samples : List Byte) (s : State) : Answer :=
  if s.clkEn = false then .next s
  else if s.cfg.cap ≤ s.offset.toNat then .fault .tickOutsideBuffer
  else
    let moved := tickData samples s.offset.toNat (halfOf s.cfg s.offset.toNat) s
    .next { moved with offset := nextOffset s.cfg s.offset.toNat }

/-! ### USB completions -/

/-- The priming and the start of the clock, with FILL_PENDING = 1 (42 R303). -/
def primeAndStart (s : State) : State :=
  let zeroed := { s with offset := 0, draws := s.draws + 8 }
  let primed := writePort s.cfg.primeSlot1 (primeWord s.buf s.draws 1)
    (writePort s.cfg.primeSlot0 (primeWord s.buf s.draws 0) zeroed)
  let started := setClock true primed
  { started with fillPending := false }

/-- completion_effect(d) acts: d is current, carries the notification, and the fill is pending (42 R301 to R303). -/
def completionActs (d : Descriptor) (s : State) : Bool :=
  d.epoch == s.epoch && d.kind == .fill && s.fillPending

/-- completion_effect(d) and the Complete event (42 R300 to R304). -/
def completeDescriptor (d : Descriptor) (s : State) : State :=
  if completionActs d s then emit (.complete d true) (primeAndStart s)
  else emit (.complete d false) s

/-- The bytes an IN completion delivers: draws if tainted, else the half's content (42 R300). -/
def inBytes (d : Descriptor) (s : State) : List Byte :=
  if d.tainted then drawBytes s.draws s.cfg.half
  else memRead s.buf s.draws (halfBase s.cfg d.half) s.cfg.half

/-- UsbIn: completion of the head IN descriptor (42 R300). -/
def usbInStep (s : State) : State :=
  match s.inq with
  | [] => s
  | d :: rest =>
    completeDescriptor d
      (emit (.hostRx d (inBytes d s)) { s with inq := rest, draws := s.draws + s.cfg.half })

/-- UsbOut: completion of the head OUT descriptor with the host's bytes (42 R304). -/
def usbOutStep (given : List Byte) (s : State) : State :=
  match s.outq with
  | [] => s
  | d :: rest =>
    let bytes := suppliedBytes s.draws s.cfg.half given
    completeDescriptor d
      (emit (.hostTx d bytes)
        { s with outq := rest, buf := memWrite s.buf (halfBase s.cfg d.half) bytes, draws := s.draws + s.cfg.half })

/-! ### The host on the command port -/

/-- Push one command word; there is no move into a full CMDQ (00 R12). -/
def hostPushStep (w : Word) (s : State) : State :=
  if cmdFull s then s else { s with cmdq := s.cmdq ++ [w] }

/-- Pop one response word, if there is one (00 R12). -/
def hostPopStep (s : State) : State := { s with rspq := s.rspq.tail }

end Sys2Proof.Machine
end

