-- ==== Sys2Proof/Machine/ModeControl.lean ====
section
/-! DEFINITION. The mode controller: SET_POWER, GET_POWER, SET_MODE, GET_MODE, and the exit and entry protocols
(spec/41_mode_control.md). -/

namespace Sys2Proof.Machine

/-- rx_entry(), the RECEIVE entry (41 R235). -/
def rxEntry (s : State) : State :=
  let cleared := clearPort s
  setClock true { cleared with offset := BitVec.ofNat 20 (s.cfg.cap - s.cfg.rxMargin), phase := 1 }

/-- tx_entry(), the TRANSMIT entry: the initial fill is scheduled and the clock stays off (41 R237). -/
def txEntry (s : State) : State :=
  pushDescriptor { dir := .out, half := 0, kind := .fill, epoch := s.epoch, tainted := false }
    { s with offset := BitVec.ofNat 20 s.cfg.cap, phase := 0, fillPending := true }

/-- Steps (1) to (4) of change_mode, the exit: clock off first, then the fill wait, the epoch, the buffer state
(41 R233). -/
def exitStream (s : State) : State :=
  let off := setClock false s
  { off with fillPending := false, epoch := s.epoch + 1, offset := 0, phase := 0 }

/-- The entry protocol of a mode, step (7) of change_mode (41 R233). -/
def enterMode (m : Mode) (s : State) : State :=
  match m with
  | .off => s
  | .rx => rxEntry s
  | .tx => txEntry s

/-- change_mode(m) (41 R233). -/
def changeMode (m : Mode) (s : State) : State :=
  let driven := driveLines (powerOf m) (exitStream s)
  enterMode m { driven with mode := m }

/-- SET_MODE once its code has named a mode: the remaining checks in the order of 41 R230, then R232 or R233. -/
def setModeTo (m : Mode) (w : Word) (s : State) : State :=
  if m ≠ .off ∧ s.bufReady = false then raiseFault .notInitialized w s
  else if m = .tx ∧ m ≠ s.mode ∧ queueFull s.cfg s.outq = true then raiseFault .queueOverflow w s
  else if m = s.mode then driveLines (powerOf m) s
  else changeMode m s

/-- SET_MODE m (41 R230). -/
def execSetMode (code : BitVec 4) (s : State) : Answer :=
  match modeOfCode code with
  | none => .next (raiseFault .illegalOperand (encode (.setMode code)) s)
  | some m => .next (setModeTo m (encode (.setMode code)) s)

/-- GET_MODE (41 R240). -/
def execGetMode (s : State) : Answer := .next (respond (modeResponse s.mode) s)

/-- SET_POWER p (41 R222). -/
def execSetPower (code : BitVec 4) (s : State) : Answer :=
  match powerOfCode code with
  | none => .next (raiseFault .illegalOperand (encode (.setPower code)) s)
  | some p => .next (driveLines p s)

/-- GET_POWER (41 R225). -/
def execGetPower (s : State) : Answer := .next (respond (powerResponse s.lines) s)

end Sys2Proof.Machine
end

