-- ==== Sys2Proof/Machine/RegisterBus.lean ====
section
/-! DEFINITION. The register bus driver's commands: REG_WRITE, REG_READ, REG_SET, REG_FLUSH (spec/40_register_bus.md). A
faulting command takes its fault as a next state (60 R325); the word it records is its own encoding. -/

namespace Sys2Proof.Machine

/-- REG_WRITE i, v: a direct write with write-through to the cache (40 R190). -/
def execRegWrite (idx : BitVec 8) (val : BitVec 16) (s : State) : Answer :=
  if indexOk s.cfg idx then
    let v := maskValue s.cfg val
    .next (setDirty idx.toNat false (setCache idx.toNat v (busWrite idx.toNat v s)))
  else .next (raiseFault .badIndex (encode (.regWrite idx val)) s)

/-- REG_READ i: a read that bypasses the cache (40 R195). -/
def execRegRead (idx : BitVec 8) (s : State) : Answer :=
  if indexOk s.cfg idx then
    .next (respond (readResponse (busReadValue s idx.toNat)) (busRead idx.toNat s))
  else .next (raiseFault .badIndex (encode (.regRead idx)) s)

/-- REG_SET i, v: a cached logical write with no bus traffic (40 R200). -/
def execRegSet (idx : BitVec 8) (val : BitVec 16) (s : State) : Answer :=
  if indexOk s.cfg idx then
    let v := maskValue s.cfg val
    if v = cacheAt s idx.toNat then .next s
    else .next (setDirty idx.toNat true (setCache idx.toNat v s))
  else .next (raiseFault .badIndex (encode (.regSet idx val)) s)

/-- REG_FLUSH: every dirty register, in ascending index order, one atomic step (40 R205). -/
def execRegFlush (s : State) : Answer :=
  .next ((List.range s.cfg.nRegs).foldl flushOne s)

end Sys2Proof.Machine
end

