-- ==== Sys2Proof/Machine/Stream.lean ====
section
/-! DEFINITION. The stream commands: INIT, SCHED_STEP with its two steps, QUERY_START, GET_STATUS
(spec/42_stream.md R270 to R292). -/

namespace Sys2Proof.Machine

/-- INIT (42 R270). -/
def execInit (s : State) : Answer :=
  if s.bufReady then .next (raiseFault .alreadyInitialized (encode .init) s)
  else .next { s with bufReady := true }

/-- SCHED_STEP, step 1, with its checks in the order of 42 R280; QUEUE_OVERFLOW comes before any push or flip (R282). -/
def execSchedStep (s : State) : Answer :=
  if s.bufReady = false then .next (raiseFault .notInitialized (encode .schedStep) s)
  else if s.mode = .off then .next (raiseFault .streamOff (encode .schedStep) s)
  else if s.fillPending then .next (raiseFault .fillPending (encode .schedStep) s)
  else if owedHalf0 s then
    if queueFull s.cfg (queueOf s (dirOf s.mode)) then .next (raiseFault .queueOverflow (encode .schedStep) s)
    else
      let scheduled := scheduleHalf 0 s
      .next { scheduled with seq := .step2 }
  else .next { s with seq := .step2 }

/-- SCHED_STEP, step 2: the Sequencer's step in STEP2 (42 R281). A fault here records the word of the SCHED_STEP. -/
def schedStepSecond (s : State) : State :=
  let back := { s with seq := .idle }
  if owedHalf1 s then
    if queueFull s.cfg (queueOf s (dirOf s.mode)) then raiseFault .queueOverflow (encode .schedStep) back
    else scheduleHalf 1 back
  else back

/-- QUERY_START (42 R290). -/
def execQueryStart (s : State) : Answer := .next (respond (queryResponse (startReady s)) s)

/-- GET_STATUS: every field from one state (42 R292). -/
def execGetStatus (s : State) : Answer :=
  .next (respond (statusResponse (statusCount s.xrunCount) s.mode s.bufReady s.fillPending s.clkEn s.phase s.offset) s)

end Sys2Proof.Machine
end

