-- ==== Sys2Proof/Machine/Dispatch.lean ====
section
/-! DEFINITION. The dispatch from a command to its meaning (spec/30_encoding.md R138): one arm per row of the opcode map. -/

namespace Sys2Proof.Machine

def exec (i : Instr) (s : State) : Host.Outcome State Fault Refusal :=
  match i with
  | .init => Sys2Proof.Machine.execInit s
  | .setMode code => Sys2Proof.Machine.execSetMode code s
  | .getMode => Sys2Proof.Machine.execGetMode s
  | .setPower code => Sys2Proof.Machine.execSetPower code s
  | .getPower => Sys2Proof.Machine.execGetPower s
  | .regWrite idx val => Sys2Proof.Machine.execRegWrite idx val s
  | .regRead idx => Sys2Proof.Machine.execRegRead idx s
  | .regSet idx val => Sys2Proof.Machine.execRegSet idx val s
  | .regFlush => Sys2Proof.Machine.execRegFlush s
  | .schedStep => Sys2Proof.Machine.execSchedStep s
  | .queryStart => Sys2Proof.Machine.execQueryStart s
  | .getStatus => Sys2Proof.Machine.execGetStatus s

end Sys2Proof.Machine
end

