-- ==== Sys2Proof/Machine/Sequencer.lean ====
section
/-! DEFINITION. The Sequencer's step (spec/42_stream.md R261, R262, R281): the response hold, taking the head command,
decoding it and executing it; and the moves of the interleaving (spec/20_memory.md R110). -/

namespace Sys2Proof.Machine

/-- The fault a word that is no command raises (30 R139 to R141). -/
def faultOfDecode (e : DecodeError) : FaultCode :=
  match e with
  | .illegalOpcode => .illegalOpcode
  | .illegalOperand => .illegalOperand

/-- Decode and execute a command word that has been taken (42 R262). -/
def runWord (w : Word) (s : State) : Answer :=
  match decode w with
  | .instr i => exec i s
  | .bad e => .next (raiseFault (faultOfDecode e) w s)

/-- Rule 42 R261 holds the word at the head of CMDQ: it is response-producing and RSPQ is full. -/
def heldBack (w : Word) (s : State) : Bool := responseProducing w && rspFull s

/-- The IDLE step: take the head word unless it is held, record Cmd(w), decode, execute (42 R262). With CMDQ empty or
the head held there is no step (log 8). -/
def idleStep (s : State) : Answer :=
  match s.cmdq with
  | [] => .next s
  | w :: rest =>
    if heldBack w s then .next s
    else runWord w (emit (.cmd w) { s with cmdq := rest })

/-- The Sequencer's step in each control state (10 R40). HALTED has none (60 R325). -/
def sequencerStep (s : State) : Answer :=
  match s.seq with
  | .idle => idleStep s
  | .step2 => .next (schedStepSecond s)
  | .halted => .next s

/-- The step of the agent whose turn it is (00 R5 to R9). -/
def takeTurn (t : Turn) (s : State) : Answer :=
  match t with
  | .sequencer => sequencerStep s
  | .tick samples => tickStep samples s
  | .usbIn => .next (usbInStep s)
  | .usbOut bytes => .next (usbOutStep bytes s)
  | .hostPush w => .next (hostPushStep w s)
  | .hostPop => .next (hostPopStep s)
  | .hostReset => .next (resetBlock s)

/-- Whose turn is next: the head of the agenda, the Sequencer's when none is left (log 2). -/
def nextTurn (s : State) : Turn :=
  match s.agenda with
  | [] => .sequencer
  | t :: _ => t

/-- The state with its next turn taken off the agenda. -/
def dropTurn (s : State) : State := { s with agenda := s.agenda.tail }

/-- A command word placed at the head of CMDQ, where the Sequencer takes its next command. -/
def placeWord (w : Word) (s : State) : State := { s with cmdq := w :: s.cmdq.tail }

/-- The agenda with the Sequencer's turn first, left empty where it is empty (it is then the Sequencer's turn). -/
def sequencerFirst (agenda : List Turn) : List Turn :=
  match agenda with
  | [] => []
  | t :: rest => .sequencer :: t :: rest

end Sys2Proof.Machine
end

