-- ==== Sys2Proof/WellFormed.lean ====
section
/-! DEFINITION. Well-formed configurations (spec/00_scope.md R14) and well-formed commands (30_encoding.md R132, R134,
R140, R141): the checks that need no state. -/

namespace Sys2Proof

/-- CAP is even and CAP ≤ 2¹⁹ (00 R14). -/
def Config.capOk (c : Config) : Bool := c.cap % 2 == 0 && decide (c.cap ≤ 2 ^ 19)

/-- TICK_BYTES is a positive multiple of WORD_BYTES and divides HALF (00 R14). -/
def Config.tickOk (c : Config) : Bool :=
  decide (0 < c.tickBytes) && c.tickBytes % Config.wordBytes == 0 && c.half % c.tickBytes == 0

/-- RX_MARGIN is a multiple of TICK_BYTES and 0 < RX_MARGIN ≤ HALF (00 R14). -/
def Config.marginOk (c : Config) : Bool :=
  c.rxMargin % c.tickBytes == 0 && decide (0 < c.rxMargin) && decide (c.rxMargin ≤ c.half)

/-- PORT_WORDS ≥ 2 and the two prime slots are distinct and below it (00 R14). -/
def Config.portOk (c : Config) : Bool :=
  decide (2 ≤ c.portWords) && c.primeSlot0 != c.primeSlot1 && decide (c.primeSlot0 < c.portWords) &&
    decide (c.primeSlot1 < c.portWords)

/-- 10 ≤ DATA_BITS ≤ 16, 1 ≤ N_REGS ≤ 256 (00 R13) and N_REGS ≤ 2^INDEX_BITS (00 R14). -/
def Config.regsOk (c : Config) : Bool :=
  decide (10 ≤ c.dataBits) && decide (c.dataBits ≤ 16) && decide (1 ≤ c.nRegs) && decide (c.nRegs ≤ 256) &&
    decide (c.nRegs ≤ 2 ^ c.indexBits)

/-- The data field, the index field and the read flag are pairwise disjoint and lie below FRAME_BITS (00 R14).
The data field starts at bit 0, so a field disjoint from it lies at or above DATA_BITS; an index field of width 0 is
empty and disjoint from everything. -/
def Config.frameOk (c : Config) : Bool :=
  (c.indexBits == 0 || decide (c.dataBits ≤ c.indexShift)) && decide (c.dataBits ≤ c.readFlagBit) &&
    (c.indexBits == 0 || decide (c.readFlagBit < c.indexShift) || decide (c.indexShift + c.indexBits ≤ c.readFlagBit)) &&
    decide (c.dataBits ≤ c.frameBits) && (c.indexBits == 0 || decide (c.indexShift + c.indexBits ≤ c.frameBits)) &&
    decide (c.readFlagBit < c.frameBits)

/-- REG_DEFAULTS has N_REGS entries (00 R13), each below 2^DATA_BITS (00 R14). -/
def Config.defaultsOk (c : Config) : Bool :=
  c.regDefaults.length == c.nRegs && c.regDefaults.all fun v => decide (v.toNat < 2 ^ c.dataBits)

/-- USBQ_DEPTH ≥ 2, CMD_DEPTH ≥ 1 and RSP_DEPTH ≥ 1 (00 R13; log 18). -/
def Config.depthsOk (c : Config) : Bool :=
  decide (2 ≤ c.usbqDepth) && decide (1 ≤ c.cmdDepth) && decide (1 ≤ c.rspDepth)

/-- A well-formed configuration (00 R14, with the ranges of R13). -/
def Config.wellFormed (c : Config) : Bool :=
  c.capOk && c.tickOk && c.marginOk && c.portOk && c.regsOk && c.frameOk && c.defaultsOk && c.depthsOk

/-- A command whose operands are legal: a mode code below 3, a power code below 4 (30 R140), a register index below
N_REGS (30 R132). Every other command is always legal as syntax. -/
def Instr.wellFormed (c : Config) (i : Instr) : Bool :=
  match i with
  | .init => true
  | .setMode code => decide (code.toNat < 3)
  | .getMode => true
  | .setPower code => decide (code.toNat < 4)
  | .getPower => true
  | .regWrite idx _ => decide (idx.toNat < c.nRegs)
  | .regRead idx => decide (idx.toNat < c.nRegs)
  | .regSet idx _ => decide (idx.toNat < c.nRegs)
  | .regFlush => true
  | .schedStep => true
  | .queryStart => true
  | .getStatus => true

end Sys2Proof
end

