-- ==== Sys2Proof/Machine/Step.lean ====
section
/-! DEFINITION. One step of the machine: one atomic step of the agent whose turn it is (spec/20_memory.md R110), refused
for an ill-formed configuration (spec/00_scope.md R14, 70 R375); and the host's `withFetchWord`. -/

namespace Sys2Proof.Machine

/-- One step of the block. -/
def step (s : State) : Host.Outcome State Fault Refusal :=
  if s.cfg.wellFormed then takeTurn (nextTurn s) (dropTurn s) else .refused .illFormedConfig

/-- `s` with a command word placed so that the very next step takes and executes it: at the head of CMDQ, the Sequencer
in IDLE and at turn, and RSPQ emptied only where it would hold the word back (log 3). -/
def State.withFetchWord (s : State) (nbits w : Nat) : State :=
  let word := tableWord nbits w
  { placeWord word s with
    seq := .idle
    agenda := sequencerFirst s.agenda
    rspq := if heldBack word s then [] else s.rspq }

end Sys2Proof.Machine
end

