-- ==== Sys2Proof/Safety.lean ====
section
/-! DEFINITION. What claims about the block speak of: settled points (spec/00_scope.md R21), the state invariants of
spec/10_state.md R55 and R62, the well-shapedness of the queues and stores, alternation (spec/42_stream.md R315), and
the timing contract (spec/70_reset_and_hazards.md R382). -/

namespace Sys2Proof.Machine

/-- A settled point: SEQ = IDLE and an empty command FIFO (00 R21). -/
def Settled (s : State) : Prop := s.seq = .idle ∧ s.cmdq = []

/-- The line states the controller allows: never TXEN and RXEN, never either without EN (10 R55 (g), 41 R223). -/
def legalLines (l : BitVec 3) : Bool := l == 0b000 || l == 0b001 || l == 0b011 || l == 0b101

/-- The column "final LINES" of the drive_lines table (41 R221). -/
def finalLines (p : Power) : BitVec 3 :=
  match p with
  | .shutdown => 0b000
  | .standby => 0b001
  | .transmit => 0b011
  | .receive => 0b101

/-- The events of drive_lines, in the order of its table (41 R221). -/
def lineEvents (p : Power) : List Event :=
  match p with
  | .shutdown => [.lineWrite .rxen false, .lineWrite .txen false, .lineWrite .en false]
  | .standby => [.lineWrite .rxen false, .lineWrite .txen false, .lineWrite .en true]
  | .transmit => [.lineWrite .rxen false, .lineWrite .en true, .lineWrite .txen true]
  | .receive => [.lineWrite .txen false, .lineWrite .en true, .lineWrite .rxen true]

/-- The state invariants of 10 R55. -/
structure StreamInv (s : State) : Prop where
  /-- (a) OFFSET ≤ CAP. -/
  offset_le : s.offset.toNat ≤ s.cfg.cap
  /-- (a) OFFSET mod TICK_BYTES = 0. -/
  offset_tick : s.offset.toNat % s.cfg.tickBytes = 0
  /-- (b) OFFSET = CAP only while a TRANSMIT fill is pending with the clock off. -/
  offset_cap : s.offset.toNat = s.cfg.cap → s.mode = .tx ∧ s.fillPending = true ∧ s.clkEn = false
  /-- (c) The clock runs only while streaming. -/
  clock_on : s.clkEn = true → s.mode ≠ .off ∧ s.fillPending = false ∧ s.offset.toNat < s.cfg.cap
  /-- (d) A pending fill is TRANSMIT with the clock off. -/
  fill : s.fillPending = true → s.mode = .tx ∧ s.clkEn = false
  /-- (e) Streaming needs an initialised buffer. -/
  ready : s.mode ≠ .off → s.bufReady = true
  /-- (f) In OFF everything is at rest. -/
  at_rest : s.mode = .off → s.clkEn = false ∧ s.fillPending = false ∧ s.offset = 0 ∧ s.phase = 0
  /-- (g) The lines are legal. -/
  lines_legal : legalLines s.lines = true

/-- The stores and queues have the sizes of 10 R60, R61, R65, R66, R70, R75 and R78, and storage is canonical. -/
structure ShapeInv (s : State) : Prop where
  cache_length : s.cache.length = s.cfg.nRegs
  cache_bits : ∀ v ∈ s.cache, v.toNat < 2 ^ s.cfg.dataBits
  dirty_length : s.dirty.length = s.cfg.nRegs
  chipreg_length : s.chipreg.length = s.cfg.nRegs
  port_length : s.port.length = s.cfg.portWords
  buf_wf : Memory.wf s.buf
  buf_range : ∀ cell ∈ s.buf, cell.1 < s.cfg.cap
  inq_length : s.inq.length ≤ s.cfg.usbqDepth
  outq_length : s.outq.length ≤ s.cfg.usbqDepth
  cmdq_length : s.cmdq.length ≤ s.cfg.cmdDepth
  rspq_length : s.rspq.length ≤ s.cfg.rspDepth

/-- A descriptor that is the current epoch's FILL (42 R301, R303). -/
def currentFill (s : State) (d : Descriptor) : Bool := d.kind == .fill && d.epoch == s.epoch

/-- The descriptors in flight are what the rules push (10 R70, R71), none is of a later epoch (R50), and the current FILL
exists in OUTQ, once, exactly while FILL_PENDING = 1 (42 R303). -/
structure QueueInv (s : State) : Prop where
  in_stream : ∀ d ∈ s.inq, d.dir = .inn ∧ d.kind = .stream ∧ d.epoch ≤ s.epoch
  out_dir : ∀ d ∈ s.outq, d.dir = .out ∧ d.epoch ≤ s.epoch
  fill_half : ∀ d ∈ s.outq, d.kind = .fill → d.half = 0
  fill_count : (s.outq.filter (currentFill s)).length = if s.fillPending then 1 else 0

/-- Under ECHO a clean register agrees with the chip (10 R62). -/
def ChipAgrees (s : State) : Prop :=
  s.cfg.chipResponse = .echo →
    ∀ i, i < s.cfg.nRegs → dirtyAt s i = false → chipregAt s i = some (cacheAt s i)

/-- FAULT_CODE is nonzero exactly in HALTED, and never above 8 (60 R320, R326). -/
def FaultInv (s : State) : Prop := (s.seq = .halted ↔ s.faultCode ≠ 0) ∧ s.faultCode.toNat ≤ 8

/-- Between the two steps of a SCHED_STEP the stream is running (42 R281). -/
def Step2Inv (s : State) : Prop := s.seq = .step2 → s.mode ≠ .off ∧ s.fillPending = false ∧ s.bufReady = true

/-- The halves of the Schedule events of one epoch, oldest first. -/
def scheduledHalves (epoch : Nat) (events : List Event) : List Half :=
  match events with
  | [] => []
  | .schedule d :: rest =>
    if d.epoch = epoch then d.half :: scheduledHalves epoch rest else scheduledHalves epoch rest
  | _ :: rest => scheduledHalves epoch rest

/-- No two neighbours are equal. -/
def alternates (hs : List Half) : Bool :=
  match hs with
  | [] => true
  | h :: rest =>
    match rest with
    | [] => true
    | h' :: _ => h != h' && alternates rest

/-- Alternation (42 R315): within every epoch consecutive Schedule events name different halves, none is of a later
epoch, and the current epoch's last one named PHASE (10 R44). -/
structure AlternationInv (s : State) : Prop where
  alternating : ∀ e, alternates (scheduledHalves e s.events) = true
  no_later : ∀ e, s.epoch < e → scheduledHalves e s.events = []
  last_is_phase : ∀ h, (scheduledHalves s.epoch s.events).getLast? = some h → s.phase = h

/-- What TIMING_CONTRACT remembers along a segment (70 R382). -/
structure ContractTrace where
  /-- IN descriptors of the epoch completed so far. -/
  inDone : Nat
  /-- Half entries so far. -/
  entries : Nat
  /-- A current-epoch descriptor for half 0 has completed since the clock last entered half 0. -/
  fresh0 : Bool
  /-- The same for half 1. -/
  fresh1 : Bool
  /-- No violation so far. -/
  ok : Bool
deriving DecidableEq, Repr

/-- A current-epoch completion makes its half fresh. -/
def noteCompletion (epoch : Nat) (d : Descriptor) (t : ContractTrace) : ContractTrace :=
  if d.epoch = epoch then
    { t with
      inDone := if d.dir = .inn then t.inDone + 1 else t.inDone
      fresh0 := t.fresh0 || d.half == 0
      fresh1 := t.fresh1 || d.half == 1 }
  else t

/-- (b): a tick with offset h·HALF enters half h, which must be fresh; the first two entries in RX are exempt. -/
def noteTick (c : Config) (m : Mode) (o : Nat) (t : ContractTrace) : ContractTrace :=
  let exempt := m == .rx && decide (t.entries < 2)
  if o = 0 then { t with entries := t.entries + 1, fresh0 := false, ok := t.ok && (t.fresh0 || exempt) }
  else if o = c.half then { t with entries := t.entries + 1, fresh1 := false, ok := t.ok && (t.fresh1 || exempt) }
  else t

/-- (a): no tick is an xrun, except in RX before the second IN descriptor of the epoch has completed. -/
def noteXrun (m : Mode) (t : ContractTrace) : ContractTrace :=
  { t with ok := t.ok && (m == .rx && decide (t.inDone < 2)) }

/-- The contract's bookkeeping for one event. -/
def noteEvent (c : Config) (m : Mode) (epoch : Nat) (t : ContractTrace) (e : Event) : ContractTrace :=
  match e with
  | .complete d _ => noteCompletion epoch d t
  | .portIn o _ => noteTick c m o t
  | .portOut o _ => noteTick c m o t
  | .xrun _ _ => noteXrun m t
  | _ => t

/-- TIMING_CONTRACT of a segment: the events between the entry into mode `m` with epoch `epoch` and the next mode change
(70 R382; log 20). -/
def timingContract (c : Config) (m : Mode) (epoch : Nat) (segment : List Event) : Bool :=
  (segment.foldl (noteEvent c m epoch) { inDone := 0, entries := 0, fresh0 := false, fresh1 := false, ok := true }).ok

/-- The events since the last mode change, which begins with ClockEnable(0) (41 R233). -/
def currentSegment (events : List Event) : List Event :=
  (events.reverse.takeWhile (· != .clockEnable false)).reverse

/-- The current stream segment satisfies TIMING_CONTRACT. -/
def TimingContract (s : State) : Prop :=
  timingContract s.cfg s.mode s.epoch (currentSegment s.events) = true

/-- Every invariant of the block together. -/
structure BlockInv (s : State) : Prop where
  stream : StreamInv s
  shape : ShapeInv s
  queues : QueueInv s
  chip : ChipAgrees s
  faults : FaultInv s
  step2 : Step2Inv s
  alternation : AlternationInv s

end Sys2Proof.Machine
end

