-- ==== Sys2Proof/Certificates/Slice0/Obligations.lean ====
section
/-! DEFINITION. The statements about the block, from the numbered rules of spec/. -/

namespace Sys2Proof.Machine

/-- The Sequencer takes `w` at its next step: the configuration is well-formed, it is the Sequencer's turn, it is IDLE, `w`
is the head of CMDQ with `rest` behind it, and the response hold does not apply (42 R261, R262). -/
def Takes (s : State) (w : Word) (rest : List Word) : Prop :=
  s.cfg.wellFormed = true ∧ nextTurn s = .sequencer ∧ s.seq = .idle ∧ s.cmdq = w :: rest ∧ heldBack w s = false

/-- The state in which a taken command executes: its turn and its word are gone, and Cmd(w) is recorded (42 R262). -/
def takenState (s : State) (w : Word) (rest : List Word) : State :=
  { s with agenda := s.agenda.tail, cmdq := rest, events := s.events ++ [.cmd w] }

/-- The state after fault entry with a code and a word (60 R325). -/
def faultedState (number : BitVec 4) (cause : FaultCode) (w : Word) (s : State) : State :=
  { s with faultCode := number, faultWord := w, seq := .halted, events := s.events ++ [.fault cause w] }

/-- The state after a response `w` (00 R18). -/
def respondedState (w : Word) (s : State) : State :=
  { s with rspq := s.rspq ++ [w], events := s.events ++ [.resp w] }

/-- The mask and the match of a command's row in the opcode map (30 R138). -/
def rowMask (i : Instr) : Word :=
  match i with
  | .init => 0xFFFFFFFF
  | .setMode _ => 0xF0FFFFFF
  | .getMode => 0xFFFFFFFF
  | .setPower _ => 0xF0FFFFFF
  | .getPower => 0xFFFFFFFF
  | .regWrite _ _ => 0xFF000000
  | .regRead _ => 0xFF00FFFF
  | .regSet _ _ => 0xFF000000
  | .regFlush => 0xFFFFFFFF
  | .schedStep => 0xFFFFFFFF
  | .queryStart => 0xFFFFFFFF
  | .getStatus => 0xFFFFFFFF

/-- See `rowMask`. -/
def rowMatch (i : Instr) : Word :=
  match i with
  | .init => 0x10000000
  | .setMode _ => 0x20000000
  | .getMode => 0x30000000
  | .setPower _ => 0x40000000
  | .getPower => 0x50000000
  | .regWrite _ _ => 0x60000000
  | .regRead _ => 0x70000000
  | .regSet _ _ => 0x80000000
  | .regFlush => 0x90000000
  | .schedStep => 0xA0000000
  | .queryStart => 0xB0000000
  | .getStatus => 0xC0000000

/-- A STREAM descriptor of half h as SCHED_STEP pushes it (42 R280, R281). -/
def streamDescriptor (d : Dir) (h : Half) (s : State) : Descriptor :=
  { dir := d, half := h, kind := .stream, epoch := s.epoch, tainted := false }

/-- The FILL descriptor of TRANSMIT entry in epoch e (41 R237). -/
def fillDescriptor (e : Nat) : Descriptor := { dir := .out, half := 0, kind := .fill, epoch := e, tainted := false }

/-- A frame event or a line event: what the interrupt context never does (42 R305, 60 R340). -/
def busOrLineEvent (e : Event) : Bool :=
  match e with
  | .busFrame _ _ => true
  | .lineWrite _ _ => true
  | .cmd _ => false
  | .resp _ => false
  | .portClear => false
  | .portWrite _ _ => false
  | .schedule _ => false
  | .clockEnable _ => false
  | .portIn _ _ => false
  | .portOut _ _ => false
  | .xrun _ _ => false
  | .hostRx _ _ => false
  | .hostTx _ _ => false
  | .complete _ _ => false
  | .fault _ _ => false

/-- A turn of the interrupt context: the clock's or a USB agent's (60 R340). -/
def interruptTurn (t : Turn) : Bool :=
  match t with
  | .tick _ => true
  | .usbIn => true
  | .usbOut _ => true
  | .sequencer => false
  | .hostPush _ => false
  | .hostPop => false
  | .hostReset => false

end Sys2Proof.Machine

open Sys2Proof Sys2Proof.Machine

/-! ### Encoding (30_encoding.md) -/

/-- 30 R163: the encoding function and its two examples. -/
def Obligations.EncodingFunction : Prop :=
  (∀ i : Instr, ∃ op code idx val : Nat, op < 16 ∧ code < 16 ∧ idx < 256 ∧ val < 65536 ∧
      encode i = BitVec.ofNat 32 ((op <<< 28) ||| (code <<< 24) ||| (idx <<< 16) ||| val) ∧
      (op, code, idx, val) =
        match i with
        | .init => (0x1, 0, 0, 0)
        | .setMode m => (0x2, m.toNat, 0, 0)
        | .getMode => (0x3, 0, 0, 0)
        | .setPower p => (0x4, p.toNat, 0, 0)
        | .getPower => (0x5, 0, 0, 0)
        | .regWrite j v => (0x6, 0, j.toNat, v.toNat)
        | .regRead j => (0x7, 0, j.toNat, 0)
        | .regSet j v => (0x8, 0, j.toNat, v.toNat)
        | .regFlush => (0x9, 0, 0, 0)
        | .schedStep => (0xA, 0, 0, 0)
        | .queryStart => (0xB, 0, 0, 0)
        | .getStatus => (0xC, 0, 0, 0)) ∧
    encode (.regWrite 3 0x1AB) = 0x600301AB ∧ encode (.setMode 2) = 0x22000000

/-- The words of spec/95_test_vectors.md E-1, written from the patterns of 30 R138, decode to their commands. -/
def Obligations.ListedWordsDecode : Prop :=
  decode 0x10000000 = .instr .init ∧ decode 0x21000000 = .instr (.setMode 1) ∧
    decode 0x30000000 = .instr .getMode ∧ decode 0x43000000 = .instr (.setPower 3) ∧
    decode 0x50000000 = .instr .getPower ∧ decode 0x600301AB = .instr (.regWrite 3 0x1AB) ∧
    decode 0x70030000 = .instr (.regRead 3) ∧ decode 0x80050155 = .instr (.regSet 5 0x155) ∧
    decode 0x90000000 = .instr .regFlush ∧ decode 0xA0000000 = .instr .schedStep ∧
    decode 0xB0000000 = .instr .queryStart ∧ decode 0xC0000000 = .instr .getStatus

/-- Decoding the encoding of any command gives the command back, whatever its operands. -/
def Obligations.DecodeOfEncode : Prop := ∀ i : Instr, decode (encode i) = .instr i

/-- A word that decodes to a command is that command's encoding: each word has one meaning. -/
def Obligations.EncodeOfDecode : Prop := ∀ (w : Word) (i : Instr), decode w = .instr i → encode i = w

/-- 30 R138: a word selects a row of the opcode map iff it agrees with the row's match under the row's mask. -/
def Obligations.RowSelectedByMaskAndMatch : Prop :=
  ∀ (w : Word) (m : Word),
    (∃ i, rowMatch i = m ∧ decode w = .instr i) ↔ ∃ i, rowMatch i = m ∧ w &&& rowMask i = m

/-- 30 R139: a reserved opcode raises ILLEGAL_OPCODE and nothing else, whatever the other bits. -/
def Obligations.ReservedOpcodeFaults : Prop :=
  ∀ (s : State) (w : Word) (rest : List Word), Takes s w rest →
    (w.toNat / 2 ^ 28 = 0x0 ∨ w.toNat / 2 ^ 28 = 0xD ∨ w.toNat / 2 ^ 28 = 0xE ∨ w.toNat / 2 ^ 28 = 0xF) →
    step s = .next (faultedState 1 .illegalOpcode w (takenState s w rest))

/-- 30 R140: a nonzero must-be-zero field of a valid opcode, and a reserved mode or power code, raise ILLEGAL_OPERAND and
nothing else. The must-be-zero fields are those of the formats of R131. -/
def Obligations.IllegalOperandFaults : Prop :=
  ∀ (s : State) (w : Word) (rest : List Word) (op sub idx val : Nat), Takes s w rest →
    op = w.toNat / 2 ^ 28 → sub = w.toNat / 2 ^ 24 % 16 → idx = w.toNat / 2 ^ 16 % 256 → val = w.toNat % 65536 →
    ((op ∈ [0x1, 0x3, 0x5, 0x9, 0xA, 0xB, 0xC] ∧ (sub ≠ 0 ∨ idx ≠ 0 ∨ val ≠ 0)) ∨
      (op ∈ [0x2, 0x4] ∧ (idx ≠ 0 ∨ val ≠ 0)) ∨ (op = 0x7 ∧ (sub ≠ 0 ∨ val ≠ 0)) ∨
      (op ∈ [0x6, 0x8] ∧ sub ≠ 0) ∨ (op = 0x2 ∧ 3 ≤ sub) ∨ (op = 0x4 ∧ 4 ≤ sub)) →
    step s = .next (faultedState 2 .illegalOperand w (takenState s w rest))

/-! ### The Sequencer's step (42_stream.md R261, R262, R283) -/

/-- 42 R262: the step takes the head word, records Cmd(w), decodes it and executes the command it decodes to. -/
def Obligations.StepRunsTheDecodedCommand : Prop :=
  ∀ (s : State) (w : Word) (rest : List Word) (i : Instr), Takes s w rest → decode w = .instr i →
    step s = exec i (takenState s w rest)

/-- 42 R261: a response-producing head word is held while RSPQ is full, faulting or not: no state changes (but for the turn
used up, log 2), and a host pop lifts the hold. -/
def Obligations.ResponseHold : Prop :=
  ∀ (s : State) (w : Word) (rest : List Word), s.cfg.wellFormed = true → nextTurn s = .sequencer → s.seq = .idle →
    s.cmdq = w :: rest →
    (w.toNat / 2 ^ 28 = 0x3 ∨ w.toNat / 2 ^ 28 = 0x5 ∨ w.toNat / 2 ^ 28 = 0x7 ∨ w.toNat / 2 ^ 28 = 0xB ∨
      w.toNat / 2 ^ 28 = 0xC) →
    s.rspq.length = s.cfg.rspDepth →
    step s = .next { s with agenda := s.agenda.tail } ∧ heldBack w (hostPopStep s) = false

/-- 42 R283: while SEQ = STEP2 no command is taken, by any agent's step: unless the host resets, CMDQ keeps every word (the host
may push one more), no Cmd is recorded, and the Sequencer's own step leaves STEP2. -/
def Obligations.NoCommandBetweenSchedSteps : Prop :=
  ∀ s t : State, step s = .next t → s.seq = .step2 → nextTurn s ≠ .hostReset →
    (∃ more, t.cmdq = s.cmdq ++ more) ∧ (∃ new, t.events = s.events ++ new ∧ ∀ w, Event.cmd w ∉ new) ∧
      (nextTurn s = .sequencer → t.seq ≠ .step2 ∧ t.offset = s.offset) ∧ (nextTurn s ≠ .sequencer → t.seq = .step2)

/-! ### The register bus (40_register_bus.md) -/

/-- 40 R190: REG_WRITE sends one frame carrying the masked value, then the cache holds it and the flag is clear. -/
def Obligations.RegWriteResult : Prop :=
  ∀ (s : State) (idx : BitVec 8) (val : BitVec 16), idx.toNat < s.cfg.nRegs →
    ∃ v : RegVal, v.toNat = val.toNat % 2 ^ s.cfg.dataBits ∧
      exec (.regWrite idx val) s = .next
        { s with
          cache := s.cache.set idx.toNat v
          dirty := s.dirty.set idx.toNat false
          chipreg := if s.cfg.chipResponse = .echo then s.chipreg.set idx.toNat (some v) else s.chipreg
          events := s.events ++ [.busFrame ((idx.toNat <<< s.cfg.indexShift) ||| v.toNat) 0] }

/-- 40 R195, R186: REG_READ sends one read frame and responds with the low DATA_BITS bits of the chip's answer; CACHE and DIRTY
are unchanged. Under ORACLE the answer is a draw; under ECHO its low bits are the chip's register, where that is defined, and
every other bit is a draw. On a full RSPQ, where the step would hold the command (42 R261), that `exec` sends and pushes all the
same is the model's choice (log 9). -/
def Obligations.RegReadResult : Prop :=
  ∀ (s : State) (idx : BitVec 8), s.cfg.wellFormed = true → idx.toNat < s.cfg.nRegs →
    ∃ resp w, exec (.regRead idx) s = .next
        { s with
          rspq := s.rspq ++ [w]
          draws := s.draws + 1
          events := s.events ++
            [.busFrame ((1 <<< s.cfg.readFlagBit) ||| (idx.toNat <<< s.cfg.indexShift)) resp, .resp w] } ∧
      w.toNat = resp % 2 ^ s.cfg.dataBits ∧ resp < 2 ^ s.cfg.frameBits ∧
      resp / 2 ^ s.cfg.dataBits = Config.freeFrame s.draws % 2 ^ s.cfg.frameBits / 2 ^ s.cfg.dataBits ∧
      ((s.cfg.chipResponse = .oracle ∨ chipregAt s idx.toNat = none) →
        resp = Config.freeFrame s.draws % 2 ^ s.cfg.frameBits) ∧
      ∀ v, s.cfg.chipResponse = .echo → chipregAt s idx.toNat = some v →
        resp % 2 ^ s.cfg.dataBits = v.toNat % 2 ^ s.cfg.dataBits

/-- 40 R200: REG_SET changes the cache and sets the flag iff the masked value differs; no frame is sent. -/
def Obligations.RegSetResult : Prop :=
  ∀ (s : State) (idx : BitVec 8) (val : BitVec 16), idx.toNat < s.cfg.nRegs →
    (val.toNat % 2 ^ s.cfg.dataBits = (cacheAt s idx.toNat).toNat → exec (.regSet idx val) s = .next s) ∧
      (val.toNat % 2 ^ s.cfg.dataBits ≠ (cacheAt s idx.toNat).toNat →
        ∃ v : RegVal, v.toNat = val.toNat % 2 ^ s.cfg.dataBits ∧
          exec (.regSet idx val) s = .next
            { s with cache := s.cache.set idx.toNat v, dirty := s.dirty.set idx.toNat true })

/-- 40 R205, R210: REG_FLUSH sends exactly one frame per dirty index, in ascending index order, each carrying the cached
value, and leaves every flag clear; under ECHO each flushed register of the chip holds the value. Nothing else changes. -/
def Obligations.RegFlushResult : Prop :=
  ∀ s : State, ∃ t, exec .regFlush s = .next t ∧
    t = { s with
          dirty := t.dirty
          chipreg := t.chipreg
          events := s.events ++ ((List.range s.cfg.nRegs).filter (dirtyAt s)).map fun i =>
            .busFrame (wframe s.cfg i (cacheAt s i)) 0 } ∧
    t.dirty.length = s.dirty.length ∧ t.chipreg.length = s.chipreg.length ∧
    (∀ i, dirtyAt t i = if i < s.cfg.nRegs then false else dirtyAt s i) ∧
    ∀ i, i < s.chipreg.length →
      chipregAt t i =
        if s.cfg.chipResponse = .echo ∧ i < s.cfg.nRegs ∧ dirtyAt s i = true then some (maskValue s.cfg (cacheAt s i))
        else chipregAt s i

/-- 40 R182: an index at or above N_REGS raises BAD_INDEX, with no bus traffic and no state change. -/
def Obligations.BadIndexFaults : Prop :=
  ∀ (s : State) (idx : BitVec 8) (val : BitVec 16), s.cfg.nRegs ≤ idx.toNat →
    exec (.regWrite idx val) s = .next (faultedState 3 .badIndex (encode (.regWrite idx val)) s) ∧
      exec (.regRead idx) s = .next (faultedState 3 .badIndex (encode (.regRead idx)) s) ∧
      exec (.regSet idx val) s = .next (faultedState 3 .badIndex (encode (.regSet idx val)) s)

/-- 30 R150 to R152: in a well-formed configuration the fields of a frame read back: a write frame carries the value, the
index and a clear read flag, a read request a zero data field, the index and a set read flag, and both fit FRAME_BITS. -/
def Obligations.FrameFieldsReadBack : Prop :=
  ∀ (c : Config) (i : Nat) (v : RegVal), c.wellFormed = true → i < c.nRegs →
    wframe c i v % 2 ^ c.dataBits = v.toNat % 2 ^ c.dataBits ∧
      wframe c i v / 2 ^ c.indexShift % 2 ^ c.indexBits = i ∧ (wframe c i v).testBit c.readFlagBit = false ∧
      wframe c i v < 2 ^ c.frameBits ∧ rframe c i % 2 ^ c.dataBits = 0 ∧
      rframe c i / 2 ^ c.indexShift % 2 ^ c.indexBits = i ∧ (rframe c i).testBit c.readFlagBit = true ∧
      rframe c i < 2 ^ c.frameBits

/-- 40 R211: under ECHO, REG_SET i, v; REG_FLUSH; REG_READ i leaves DIRTY[i] = 0 and responds with v masked, from every state
whose clean registers agree with the chip (10 R62), equal cached value or not. That the REG_READ answers on a full RSPQ too, where
the step would hold it (42 R261), is the model's choice (log 9). -/
def Obligations.WriteFlushReadBack : Prop :=
  ∀ (s : State) (idx : BitVec 8) (val : BitVec 16), s.cfg.wellFormed = true → s.cfg.chipResponse = .echo →
    ShapeInv s → ChipAgrees s → idx.toNat < s.cfg.nRegs →
    ∃ a b c w, exec (.regSet idx val) s = .next a ∧ exec .regFlush a = .next b ∧ exec (.regRead idx) b = .next c ∧
      dirtyAt b idx.toNat = false ∧ dirtyAt c idx.toNat = false ∧ c.rspq = s.rspq ++ [w] ∧
      w.toNat = val.toNat % 2 ^ s.cfg.dataBits

/-- 10 R62: a step clears DIRTY[i] only if it also records a write frame that carries CACHE[i] for index i. -/
def Obligations.DirtyClearedOnlyWithItsFrame : Prop :=
  ∀ (s t : State) (i : Nat), step s = .next t → ShapeInv s → i < s.cfg.nRegs → dirtyAt s i = true →
    dirtyAt t i = false →
    ∃ new, t.events = s.events ++ new ∧ Event.busFrame (wframe s.cfg i (cacheAt t i)) 0 ∈ new

/-! ### The mode controller (41_mode_control.md) -/

/-- 41 R221, R222: SET_POWER p drives the three lines of p's row, in the row's order, and changes nothing else; codes 4 to 15
raise ILLEGAL_OPERAND. -/
def Obligations.SetPowerResult : Prop :=
  ∀ (s : State) (code : BitVec 4),
    (code = 0 → exec (.setPower code) s = .next
      { s with
        lines := 0b000
        events := s.events ++ [.lineWrite .rxen false, .lineWrite .txen false, .lineWrite .en false] }) ∧
    (code = 1 → exec (.setPower code) s = .next
      { s with
        lines := 0b001
        events := s.events ++ [.lineWrite .rxen false, .lineWrite .txen false, .lineWrite .en true] }) ∧
    (code = 2 → exec (.setPower code) s = .next
      { s with
        lines := 0b011
        events := s.events ++ [.lineWrite .rxen false, .lineWrite .en true, .lineWrite .txen true] }) ∧
    (code = 3 → exec (.setPower code) s = .next
      { s with
        lines := 0b101
        events := s.events ++ [.lineWrite .txen false, .lineWrite .en true, .lineWrite .rxen true] }) ∧
    (4 ≤ code.toNat →
      exec (.setPower code) s = .next (faultedState 2 .illegalOperand (encode (.setPower code)) s))

/-- 41 R223: from a legal line state every single line write of drive_lines leaves a legal one; reset gives 000; and every step
from a legal line state leaves a legal one. -/
def Obligations.LinesMutuallyExclusive : Prop :=
  (∀ (l : BitVec 3) (p : Power) (k : Nat), legalLines l = true →
      legalLines (((lineWrites p).take k).foldl (fun l w => setLine w.1 w.2 l) l) = true) ∧
    (∀ s, (resetBlock s).lines = 0b000) ∧
    ∀ s t, step s = .next t → legalLines s.lines = true → legalLines t.lines = true

/-- 41 R225, 30 R144: GET_POWER responds the power code of the lines, 4 where they are no power state, with the lines above it.
On a full RSPQ, where the step would hold the command (42 R261), the push is the model's choice (log 9). -/
def Obligations.GetPowerResult : Prop :=
  ∀ s : State, ∃ w, exec .getPower s = .next (respondedState w s) ∧
    w.toNat = 16 * s.lines.toNat +
      if s.lines = 0b000 then 0 else if s.lines = 0b001 then 1 else if s.lines = 0b011 then 2
      else if s.lines = 0b101 then 3 else 4

/-- 41 R240, 30 R143: GET_MODE responds the mode code, every higher bit 0. On a full RSPQ, where the step would hold the command
(42 R261), the push is the model's choice (log 9). -/
def Obligations.GetModeResult : Prop :=
  ∀ s : State, ∃ w, exec .getMode s = .next (respondedState w s) ∧
    w.toNat = match s.mode with | .off => 0 | .rx => 1 | .tx => 2

/-- 41 R232: SET_MODE to the current mode drives the lines of its power state and does nothing else. -/
def Obligations.SameModeOnlyDrivesLines : Prop :=
  ∀ (s : State) (code : BitVec 4), modeOfCode code = some s.mode → (s.mode ≠ .off → s.bufReady = true) →
    exec (.setMode code) s = .next
      { s with lines := finalLines (powerOf s.mode), events := s.events ++ lineEvents (powerOf s.mode) }

/-- 41 R233: a change to OFF: clock off, fill wait dropped, a new epoch, OFFSET and PHASE 0, the lines of SHUTDOWN, MODE. The
queues, the buffer and the register file are untouched. -/
def Obligations.SetModeOffResult : Prop :=
  ∀ s : State, s.mode ≠ .off → exec (.setMode 0) s = .next
    { s with
      clkEn := false, fillPending := false, epoch := s.epoch + 1, offset := 0, phase := 0, lines := 0b000, mode := .off
      events := s.events ++
        [.clockEnable false, .lineWrite .rxen false, .lineWrite .txen false, .lineWrite .en false] }

/-- 41 R233, R235: a change to RX: the exit, the lines of RECEIVE, then port cleared, OFFSET = CAP - RX_MARGIN, PHASE = 1 and
the clock on. No descriptor is scheduled. -/
def Obligations.SetModeRxResult : Prop :=
  ∀ s : State, s.cfg.wellFormed = true → s.mode ≠ .rx → s.bufReady = true →
    ∃ o : BitVec 20, o.toNat = s.cfg.cap - s.cfg.rxMargin ∧ exec (.setMode 1) s = .next
      { s with
        clkEn := true, fillPending := false, epoch := s.epoch + 1, offset := o, phase := 1, lines := 0b101, mode := .rx
        port := List.replicate s.cfg.portWords (some 0)
        events := s.events ++
          [.clockEnable false, .lineWrite .txen false, .lineWrite .en true, .lineWrite .rxen true, .portClear,
            .clockEnable true] }

/-- 41 R233, R237: a change to TX with room in OUTQ: the exit, the lines of TRANSMIT, then OFFSET = CAP, PHASE = 0,
FILL_PENDING = 1 and one FILL descriptor of the new epoch scheduled for half 0. The clock stays off. -/
def Obligations.SetModeTxResult : Prop :=
  ∀ s : State, s.cfg.wellFormed = true → s.mode ≠ .tx → s.bufReady = true → s.outq.length < s.cfg.usbqDepth →
    ∃ o : BitVec 20, o.toNat = s.cfg.cap ∧ exec (.setMode 2) s = .next
      { s with
        clkEn := false, fillPending := true, epoch := s.epoch + 1, offset := o, phase := 0, lines := 0b011, mode := .tx
        outq := s.outq ++ [fillDescriptor (s.epoch + 1)]
        events := s.events ++
          [.clockEnable false, .lineWrite .rxen false, .lineWrite .en true, .lineWrite .txen true,
            .schedule (fillDescriptor (s.epoch + 1))] }

/-- 41 R230, R234: the faults of SET_MODE in check order: a reserved code, then RX or TX before INIT, then TX entry into a full
OUTQ; each changes nothing but the fault state. SET_MODE OFF never faults. -/
def Obligations.SetModeFaults : Prop :=
  ∀ (s : State) (code : BitVec 4),
    (3 ≤ code.toNat →
      exec (.setMode code) s = .next (faultedState 2 .illegalOperand (encode (.setMode code)) s)) ∧
    ((code = 1 ∨ code = 2) → s.bufReady = false →
      exec (.setMode code) s = .next (faultedState 4 .notInitialized (encode (.setMode code)) s)) ∧
    (code = 2 → s.bufReady = true → s.mode ≠ .tx → s.cfg.usbqDepth ≤ s.outq.length →
      exec (.setMode code) s = .next (faultedState 7 .queueOverflow (encode (.setMode code)) s)) ∧
    ∃ t, exec (.setMode 0) s = .next t ∧ t.seq = s.seq ∧ t.faultCode = s.faultCode ∧ t.faultWord = s.faultWord

/-- 41 R226: after every SET_MODE that does not fault, LINES encodes the power state of MODE: SHUTDOWN for OFF, RECEIVE for RX,
TRANSMIT for TX. -/
def Obligations.LinesEncodeModePower : Prop :=
  ∀ (s t : State) (code : BitVec 4), exec (.setMode code) s = .next t → (∀ f w, t ≠ raiseFault f w s) →
    t.lines = match t.mode with | .off => 0b000 | .rx => 0b101 | .tx => 0b011

/-- 41 R241: of two consecutive SET_MODE m, the second leaves LINES as the first did and OFFSET and PHASE as they were right
before it. -/
def Obligations.SetModeIdempotent : Prop :=
  ∀ (s t : State) (code : BitVec 4), exec (.setMode code) s = .next t →
    ∃ u, exec (.setMode code) t = .next u ∧ u.lines = t.lines ∧ u.offset = t.offset ∧ u.phase = t.phase ∧
      u.mode = t.mode ∧ u.epoch = t.epoch ∧ u.clkEn = t.clkEn ∧ u.outq = t.outq

/-! ### The stream commands (42_stream.md R270 to R292) -/

/-- 42 R270: INIT sets BUF_READY and nothing else; a second INIT raises ALREADY_INITIALIZED. -/
def Obligations.InitResult : Prop :=
  ∀ s : State, (s.bufReady = false → exec .init s = .next { s with bufReady := true }) ∧
    (s.bufReady = true → exec .init s = .next (faultedState 8 .alreadyInitialized 0x10000000 s))

/-- 42 R280: step 1 of SCHED_STEP, while streaming: where half 0 is owed and the queue has room it is scheduled in the mode's
direction and PHASE then names it; where it is not owed nothing but SEQ changes; in both cases SEQ becomes STEP2. Half 0 owed with
a full queue is a fault (42 R282), in `QueueOverflowFaults`. -/
def Obligations.SchedStepFirst : Prop :=
  ∀ s : State, s.bufReady = true → s.fillPending = false →
    (s.mode = .rx → s.cfg.half ≤ s.offset.toNat → s.phase = 1 → s.inq.length < s.cfg.usbqDepth →
      exec .schedStep s = .next
        { s with
          inq := s.inq ++ [streamDescriptor .inn 0 s], phase := 0, seq := .step2
          events := s.events ++ [.schedule (streamDescriptor .inn 0 s)] }) ∧
    (s.mode = .tx → s.cfg.half ≤ s.offset.toNat → s.phase = 1 → s.outq.length < s.cfg.usbqDepth →
      exec .schedStep s = .next
        { s with
          outq := s.outq ++ [streamDescriptor .out 0 s], phase := 0, seq := .step2
          events := s.events ++ [.schedule (streamDescriptor .out 0 s)] }) ∧
    (s.mode ≠ .off → s.offset.toNat < s.cfg.half ∨ s.phase = 0 → exec .schedStep s = .next { s with seq := .step2 })

/-- 42 R281: step 2 of SCHED_STEP, the Sequencer's step in STEP2: where half 1 is owed and the queue has room it is scheduled
in the mode's direction and PHASE then names it; where it is not owed nothing but SEQ changes; in both cases SEQ becomes IDLE. Half 1
owed with a full queue is a fault (42 R282), in `QueueOverflowFaults`. -/
def Obligations.SchedStepSecond : Prop :=
  ∀ s : State, s.cfg.wellFormed = true → nextTurn s = .sequencer → s.seq = .step2 →
    (s.mode = .rx → s.offset.toNat < s.cfg.half → s.phase = 0 → s.inq.length < s.cfg.usbqDepth →
      step s = .next
        { s with
          agenda := s.agenda.tail, inq := s.inq ++ [streamDescriptor .inn 1 s], phase := 1, seq := .idle
          events := s.events ++ [.schedule (streamDescriptor .inn 1 s)] }) ∧
    (s.mode = .tx → s.offset.toNat < s.cfg.half → s.phase = 0 → s.outq.length < s.cfg.usbqDepth →
      step s = .next
        { s with
          agenda := s.agenda.tail, outq := s.outq ++ [streamDescriptor .out 1 s], phase := 1, seq := .idle
          events := s.events ++ [.schedule (streamDescriptor .out 1 s)] }) ∧
    (s.cfg.half ≤ s.offset.toNat ∨ s.phase = 1 →
      step s = .next { s with agenda := s.agenda.tail, seq := .idle })

/-- 42 R280, R284: the state checks of SCHED_STEP in their order: before INIT, in OFF, during the fill wait. -/
def Obligations.SchedStepFaults : Prop :=
  ∀ s : State,
    (s.bufReady = false → exec .schedStep s = .next (faultedState 4 .notInitialized 0xA0000000 s)) ∧
    (s.bufReady = true → s.mode = .off → exec .schedStep s = .next (faultedState 5 .streamOff 0xA0000000 s)) ∧
    (s.bufReady = true → s.mode ≠ .off → s.fillPending = true →
      exec .schedStep s = .next (faultedState 6 .fillPending 0xA0000000 s))

/-- 42 R282: a scheduling action that finds its queue at USBQ_DEPTH descriptors, stale ones included, raises QUEUE_OVERFLOW
before it pushes or flips anything: in both steps of SCHED_STEP and in TRANSMIT entry. -/
def Obligations.QueueOverflowFaults : Prop :=
  ∀ s : State,
    (s.bufReady = true → s.fillPending = false → s.cfg.half ≤ s.offset.toNat → s.phase = 1 →
      ((s.mode = .rx ∧ s.cfg.usbqDepth ≤ s.inq.length) ∨ (s.mode = .tx ∧ s.cfg.usbqDepth ≤ s.outq.length)) →
      exec .schedStep s = .next (faultedState 7 .queueOverflow 0xA0000000 s)) ∧
    (s.cfg.wellFormed = true → nextTurn s = .sequencer → s.seq = .step2 → s.offset.toNat < s.cfg.half → s.phase = 0 →
      ((s.mode = .rx ∧ s.cfg.usbqDepth ≤ s.inq.length) ∨ (s.mode = .tx ∧ s.cfg.usbqDepth ≤ s.outq.length)) →
      step s = .next (faultedState 7 .queueOverflow 0xA0000000 { s with agenda := s.agenda.tail })) ∧
    (s.bufReady = true → s.mode ≠ .tx → s.cfg.usbqDepth ≤ s.outq.length →
      exec (.setMode 2) s = .next (faultedState 7 .queueOverflow 0x22000000 s))

/-- 42 R290, 30 R146: QUERY_START responds 1 iff MODE ≠ OFF and FILL_PENDING = 0, else 0. On a full RSPQ, where the step would hold
the command (42 R261), the push is the model's choice (log 9). -/
def Obligations.QueryStartResult : Prop :=
  ∀ s : State,
    (s.mode ≠ .off ∧ s.fillPending = false → exec .queryStart s = .next (respondedState 1 s)) ∧
      (s.mode = .off ∨ s.fillPending = true → exec .queryStart s = .next (respondedState 0 s))

/-- 42 R292, 30 R147: GET_STATUS responds every stream field of one state, and changes nothing else. On a full RSPQ, where the
step would hold the command (42 R261), the push is the model's choice (log 9). -/
def Obligations.GetStatusResult : Prop :=
  ∀ s : State, ∃ w, exec .getStatus s = .next (respondedState w s) ∧
    w.toNat % 2 ^ 20 = s.offset.toNat ∧ w.toNat / 2 ^ 20 % 2 = s.phase.val ∧ w.toNat / 2 ^ 21 % 2 = s.clkEn.toNat ∧
    w.toNat / 2 ^ 22 % 2 = s.fillPending.toNat ∧ w.toNat / 2 ^ 23 % 2 = s.bufReady.toNat ∧
    w.toNat / 2 ^ 24 % 4 = (match s.mode with | .off => 0 | .rx => 1 | .tx => 2) ∧
    w.toNat / 2 ^ 26 = min s.xrunCount.toNat 63

/-! ### The autonomous agents (42_stream.md R300 to R314) -/

/-- 42 R310 to R312: a tick in RX writes TICK_BYTES bytes at OFFSET (the RF side's, where it supplies them), records PortIn, and
advances OFFSET modulo CAP. It is an xrun iff INQ holds a descriptor of that half: then the count goes up by one, saturating, and
every INQ descriptor of the half is tainted. Every byte outside the tick's bytes is as before. -/
def Obligations.RxTick : Prop :=
  ∀ (s : State) (samples : List Byte), s.cfg.wellFormed = true → nextTurn s = .tick samples → s.clkEn = true →
    s.mode = .rx → s.offset.toNat < s.cfg.cap →
    ∃ (t : State) (b : List Byte) (h : Half), step s = .next t ∧
      b.length = s.cfg.tickBytes ∧ (samples.length = s.cfg.tickBytes → b = samples) ∧
      h = (if s.offset.toNat < s.cfg.half then 0 else 1) ∧
      (∀ a, byteAt t.buf a = if s.offset.toNat ≤ a ∧ a < s.offset.toNat + s.cfg.tickBytes then b[a - s.offset.toNat]?
        else byteAt s.buf a) ∧
      t.offset.toNat = (s.offset.toNat + s.cfg.tickBytes) % s.cfg.cap ∧
      ((∃ d ∈ s.inq, d.half = h) →
        t = { s with
              agenda := s.agenda.tail, buf := t.buf, draws := t.draws, offset := t.offset, xrunCount := t.xrunCount
              inq := s.inq.map fun d => if d.half = h then { d with tainted := true } else d
              events := s.events ++ [.portIn s.offset.toNat b, .xrun s.offset.toNat h] } ∧
        t.xrunCount.toNat = min (s.xrunCount.toNat + 1) (2 ^ 32 - 1)) ∧
      ((∀ d ∈ s.inq, d.half ≠ h) →
        t = { s with
              agenda := s.agenda.tail, buf := t.buf, draws := t.draws, offset := t.offset
              events := s.events ++ [.portIn s.offset.toNat b] })

/-- 42 R310 to R312: a tick in TX records PortOut with TICK_BYTES bytes and advances OFFSET modulo CAP; BUF is unchanged. It is an
xrun iff OUTQ holds a descriptor of that half: then the count goes up by one, saturating, and the bytes are draws. Otherwise
each defined byte is the buffer's. -/
def Obligations.TxTick : Prop :=
  ∀ (s : State) (samples : List Byte), s.cfg.wellFormed = true → nextTurn s = .tick samples → s.clkEn = true →
    s.mode = .tx → s.offset.toNat < s.cfg.cap →
    ∃ (t : State) (b : List Byte) (h : Half), step s = .next t ∧ b.length = s.cfg.tickBytes ∧
      h = (if s.offset.toNat < s.cfg.half then 0 else 1) ∧
      t.offset.toNat = (s.offset.toNat + s.cfg.tickBytes) % s.cfg.cap ∧
      ((∃ d ∈ s.outq, d.half = h) →
        t = { s with
              agenda := s.agenda.tail, draws := t.draws, offset := t.offset, xrunCount := t.xrunCount
              events := s.events ++ [.xrun s.offset.toNat h, .portOut s.offset.toNat b] } ∧
        t.xrunCount.toNat = min (s.xrunCount.toNat + 1) (2 ^ 32 - 1) ∧
        b = (List.range s.cfg.tickBytes).map fun j => Config.freeByte (s.draws + j)) ∧
      ((∀ d ∈ s.outq, d.half ≠ h) →
        t = { s with
              agenda := s.agenda.tail, draws := t.draws, offset := t.offset
              events := s.events ++ [.portOut s.offset.toNat b] } ∧
        ∀ j v, j < s.cfg.tickBytes → byteAt s.buf (s.offset.toNat + j) = some v → b[j]? = some v)

/-- 42 R300 to R302: completing an IN descriptor delivers the half to the host, draws if it is tainted and else each defined
byte, pops the descriptor, and, the descriptor being a STREAM one, changes nothing else; BUF is unchanged. -/
def Obligations.UsbInCompletion : Prop :=
  ∀ (s : State) (d : Descriptor) (rest : List Descriptor), s.cfg.wellFormed = true → nextTurn s = .usbIn →
    s.inq = d :: rest → d.kind = .stream →
    ∃ b : List Byte, b.length = s.cfg.half ∧
      step s = .next
        { s with
          agenda := s.agenda.tail, inq := rest, draws := s.draws + s.cfg.half
          events := s.events ++ [.hostRx d b, .complete d false] } ∧
      (d.tainted = true → b = (List.range s.cfg.half).map fun j => Config.freeByte (s.draws + j)) ∧
      (d.tainted = false → ∀ j v, j < s.cfg.half → byteAt s.buf (d.half.val * s.cfg.half + j) = some v → b[j]? = some v)

/-- 42 R301, R302, R304: completing an OUT descriptor that is stale or a STREAM one writes the host's HALF bytes to its half, pops
it, and changes no scheduler state; every byte outside the half is as before. -/
def Obligations.UsbOutCompletion : Prop :=
  ∀ (s : State) (given : List Byte) (d : Descriptor) (rest : List Descriptor), s.cfg.wellFormed = true →
    nextTurn s = .usbOut given → s.outq = d :: rest → (d.epoch ≠ s.epoch ∨ d.kind = .stream) →
    ∃ (t : State) (b : List Byte), step s = .next t ∧ b.length = s.cfg.half ∧
      (given.length = s.cfg.half → b = given) ∧
      t = { s with
            agenda := s.agenda.tail, outq := rest, buf := t.buf, draws := s.draws + s.cfg.half
            events := s.events ++ [.hostTx d b, .complete d false] } ∧
      ∀ a, byteAt t.buf a =
        if d.half.val * s.cfg.half ≤ a ∧ a < d.half.val * s.cfg.half + s.cfg.half then b[a - d.half.val * s.cfg.half]?
        else byteAt s.buf a

/-- 42 R303, R304: the completion of the current FILL, with a half of at least 8 bytes: half 0 is written, OFFSET ← 0, the first
two sample words go little-endian to the two prime slots, then the clock is enabled, and FILL_PENDING ← 0, in that event order. -/
def Obligations.FillCompletion : Prop :=
  ∀ (s : State) (b : List Byte) (rest : List Descriptor), s.cfg.wellFormed = true → 8 ≤ s.cfg.half →
    nextTurn s = .usbOut b → b.length = s.cfg.half → s.fillPending = true →
    s.outq = fillDescriptor s.epoch :: rest →
    ∃ (t : State) (w0 w1 : Word), step s = .next t ∧
      w0.toNat = (b.getD 0 0).toNat + 2 ^ 8 * (b.getD 1 0).toNat + 2 ^ 16 * (b.getD 2 0).toNat +
        2 ^ 24 * (b.getD 3 0).toNat ∧
      w1.toNat = (b.getD 4 0).toNat + 2 ^ 8 * (b.getD 5 0).toNat + 2 ^ 16 * (b.getD 6 0).toNat +
        2 ^ 24 * (b.getD 7 0).toNat ∧
      t = { s with
            agenda := s.agenda.tail, outq := rest, buf := t.buf, draws := t.draws, offset := 0, clkEn := true
            fillPending := false
            port := (s.port.set s.cfg.primeSlot0 (some w0)).set s.cfg.primeSlot1 (some w1)
            events := s.events ++
              [.hostTx (fillDescriptor s.epoch) b, .portWrite s.cfg.primeSlot0 w0, .portWrite s.cfg.primeSlot1 w1,
                .clockEnable true, .complete (fillDescriptor s.epoch) true] } ∧
      ∀ a, byteAt t.buf a = if a < s.cfg.half then b[a]? else byteAt s.buf a

/-- 42 R314: with the queues' invariant, CLK_EN becomes 1 in TRANSMIT only by a UsbOut step that completes the current epoch's
FILL descriptor and has written all of half 0. -/
def Obligations.TxClockOnlyAfterFill : Prop :=
  ∀ s t : State, QueueInv s → step s = .next t → s.clkEn = false → t.clkEn = true → t.mode = .tx →
    ∃ given d rest b, nextTurn s = .usbOut given ∧ s.outq = d :: rest ∧ d.kind = .fill ∧ d.half = 0 ∧
      d.epoch = s.epoch ∧ s.fillPending = true ∧ b.length = s.cfg.half ∧ Event.hostTx d b ∈ t.events ∧
      ∀ a, a < s.cfg.half → byteAt t.buf a = b[a]?

/-- 60 R340, 42 R305: no step of the clock or a USB agent touches the bus, the register file, the lines, MODE, EPOCH, BUF_READY,
PHASE, SEQ, the fault state or the command port; none pushes a descriptor; and each only adds events, none of a frame, a line or
a schedule. -/
def Obligations.InterruptContextFrame : Prop :=
  ∀ s t : State, step s = .next t → interruptTurn (nextTurn s) = true →
    t.cfg = s.cfg ∧ t.cache = s.cache ∧ t.dirty = s.dirty ∧ t.chipreg = s.chipreg ∧ t.lines = s.lines ∧
      t.mode = s.mode ∧ t.epoch = s.epoch ∧ t.bufReady = s.bufReady ∧ t.phase = s.phase ∧ t.seq = s.seq ∧
      t.faultCode = s.faultCode ∧ t.faultWord = s.faultWord ∧ t.cmdq = s.cmdq ∧ t.rspq = s.rspq ∧
      t.inq.length ≤ s.inq.length ∧ t.outq.length ≤ s.outq.length ∧
      ∃ new, t.events = s.events ++ new ∧ ∀ e ∈ new, busOrLineEvent e = false ∧ ∀ d, e ≠ .schedule d

/-- 60 R340: what the main loop's commands leave alone. No command touches the buffer, XRUN_COUNT, the configuration, the agenda
or CMDQ; the register file only a register command; the lines, only SET_MODE and SET_POWER; MODE, EPOCH, OFFSET, the clock, the
fill wait and the port only SET_MODE; BUF_READY only INIT; PHASE only SET_MODE and SCHED_STEP; RSPQ only a query. -/
def Obligations.MainLoopFrame : Prop :=
  ∀ (i : Instr) (s t : State), exec i s = .next t →
    (∀ a, byteAt t.buf a = byteAt s.buf a) ∧ t.xrunCount = s.xrunCount ∧ t.cfg = s.cfg ∧ t.agenda = s.agenda ∧
      t.cmdq = s.cmdq ∧
      ((∀ idx val, i ≠ .regWrite idx val ∧ i ≠ .regSet idx val) → t.cache = s.cache) ∧
      ((∀ idx val, i ≠ .regWrite idx val ∧ i ≠ .regSet idx val) → i ≠ .regFlush → t.dirty = s.dirty) ∧
      ((∀ idx val, i ≠ .regWrite idx val) → i ≠ .regFlush → t.chipreg = s.chipreg) ∧
      ((∀ c, i ≠ .setMode c ∧ i ≠ .setPower c) → t.lines = s.lines) ∧
      ((∀ c, i ≠ .setMode c) →
        t.mode = s.mode ∧ t.epoch = s.epoch ∧ t.offset = s.offset ∧ t.clkEn = s.clkEn ∧
          t.fillPending = s.fillPending ∧ t.port = s.port) ∧
      (i ≠ .init → t.bufReady = s.bufReady) ∧
      ((∀ c, i ≠ .setMode c) → i ≠ .schedStep → t.phase = s.phase ∧ t.inq = s.inq ∧ t.outq = s.outq) ∧
      ((∀ idx, i ≠ .regRead idx) → t.draws = s.draws) ∧
      (responseProducing (encode i) = false → t.rspq = s.rspq) ∧
      (t.seq = .halted ∨ (t.faultCode = s.faultCode ∧ t.faultWord = s.faultWord))

/-! ### Faults, the host and reset (60_exceptions.md, 00_scope.md R12, 70_reset_and_hazards.md) -/

/-- 60 R325: every command answers a next state, and one that halts the Sequencer is precise: it writes the fault state with the
number of its cause and the command's own word, records Fault, and changes nothing else. That a response-producing
command answers on a full RSPQ too is the model's choice (log 9). -/
def Obligations.FaultsArePrecise : Prop :=
  ∀ (i : Instr) (s : State), ∃ t, exec i s = .next t ∧
    (s.seq ≠ .halted → t.seq = .halted →
      ∃ f, t = { s with
                 faultCode := faultNumber f, faultWord := encode i, seq := .halted
                 events := s.events ++ [.fault f (encode i)] })

/-- 60 R326, R328: in HALTED no step but a host reset changes SEQ, FAULT_CODE or FAULT_WORD, takes a command or records a
fault. -/
def Obligations.HaltedUntilReset : Prop :=
  ∀ s t : State, step s = .next t → s.seq = .halted → nextTurn s ≠ .hostReset →
    t.seq = .halted ∧ t.faultCode = s.faultCode ∧ t.faultWord = s.faultWord ∧ (∃ more, t.cmdq = s.cmdq ++ more) ∧
      ∃ new, t.events = s.events ++ new ∧ (∀ f w, Event.fault f w ∉ new) ∧ ∀ w, Event.cmd w ∉ new

/-- 60 R327: the other agents run on in HALTED: no step but the Sequencer's and a reset depends on SEQ. -/
def Obligations.OtherAgentsIgnoreSeq : Prop :=
  ∀ (s t : State) (q : Seq), nextTurn s ≠ .sequencer → nextTurn s ≠ .hostReset → step s = .next t →
    step { s with seq := q } = .next { t with seq := q }

/-- 60 R321: a step that is not the Sequencer's raises no fault: it records none, and unless it is a reset the fault state
stands. And where the invariants of 10 R55 hold, every step answers a next state: the model never stops. -/
def Obligations.OnlyCommandsFault : Prop :=
  (∀ s t : State, step s = .next t → nextTurn s ≠ .sequencer → nextTurn s ≠ .hostReset →
    t.faultCode = s.faultCode ∧ t.faultWord = s.faultWord ∧ t.seq = s.seq ∧
      ∃ new, t.events = s.events ++ new ∧ ∀ f w, Event.fault f w ∉ new) ∧
    ∀ s : State, s.cfg.wellFormed = true → StreamInv s → ∃ t, step s = .next t

/-- 00 R12: the host's moves on the command port: a push adds one word at the tail and there is none into a full CMDQ; a pop takes
the head of RSPQ. -/
def Obligations.HostPortMoves : Prop :=
  ∀ s : State, s.cfg.wellFormed = true →
    (∀ w, nextTurn s = .hostPush w → s.cmdq.length < s.cfg.cmdDepth →
      step s = .next { s with agenda := s.agenda.tail, cmdq := s.cmdq ++ [w] }) ∧
    (∀ w, nextTurn s = .hostPush w → s.cfg.cmdDepth ≤ s.cmdq.length →
      step s = .next { s with agenda := s.agenda.tail }) ∧
    ∀ w rest, nextTurn s = .hostPop → s.rspq = w :: rest →
      step s = .next { s with agenda := s.agenda.tail, rspq := rest }

/-- 70 R373: a reset, whatever the block was doing, gives every element its reset value and leaves the chip's registers; from
there the four queries answer 0. -/
def Obligations.ResetResult : Prop :=
  ∀ s : State, s.cfg.wellFormed = true → nextTurn s = .hostReset →
    ∃ t, step s = .next t ∧ t.seq = .idle ∧ t.mode = .off ∧ t.lines = 0b000 ∧ t.offset = 0 ∧ t.phase = 0 ∧
      t.clkEn = false ∧ t.fillPending = false ∧ t.bufReady = false ∧ t.faultCode = 0 ∧ t.faultWord = 0 ∧
      t.epoch = 0 ∧ t.xrunCount = 0 ∧ t.cache = s.cfg.regDefaults ∧ t.dirty = List.replicate s.cfg.nRegs true ∧
      (∀ a, byteAt t.buf a = none) ∧ t.port = List.replicate s.cfg.portWords none ∧ t.inq = [] ∧ t.outq = [] ∧
      t.cmdq = [] ∧ t.rspq = [] ∧ t.events = [] ∧ t.chipreg = s.chipreg ∧
      ∀ i ∈ [Instr.getStatus, .getMode, .getPower, .queryStart], exec i t = .next (respondedState 0 t)

/-- 10 R85: every step but a reset only extends the event history, and no step changes the configuration. -/
def Obligations.HistoryOnlyGrows : Prop :=
  ∀ s t : State, step s = .next t →
    t.cfg = s.cfg ∧ (nextTurn s ≠ .hostReset → ∃ new, t.events = s.events ++ new)

/-! ### Invariants of every step (10_state.md R55, R62; 42_stream.md R303, R315) -/

/-- 10 R55: every step keeps the state invariants (a) to (g), from every state that meets them and in which a scheduling pass
is under way only while streaming (`Step2Inv`, kept by `ControlInvariantKept`). -/
def Obligations.StreamInvariantKept : Prop :=
  ∀ s t : State, StreamInv s → Step2Inv s → step s = .next t → StreamInv t

/-- Every step keeps the shape of the stores and queues, the canonical form of byte storage among it: 10 R60, R61, R65, R66, R70, R75,
R78. The stream invariant bounds where a tick writes. -/
def Obligations.ShapeInvariantKept : Prop :=
  ∀ s t : State, StreamInv s → ShapeInv s → step s = .next t → ShapeInv t

/-- Every step keeps the descriptor queues' invariant: the current FILL exists exactly while FILL_PENDING = 1 (42 R303), and
no descriptor is of an epoch still to come (10 R50). -/
def Obligations.QueueInvariantKept : Prop :=
  ∀ s t : State, QueueInv s → step s = .next t → QueueInv t

/-- 10 R62: every step keeps the agreement of clean registers with an ECHO chip. -/
def Obligations.ChipAgreementKept : Prop :=
  ∀ s t : State, ShapeInv s → ChipAgrees s → step s = .next t → ChipAgrees t

/-- 60 R326, R328, 42 R281: every step keeps FAULT_CODE nonzero exactly in HALTED, and STEP2 only while streaming. -/
def Obligations.ControlInvariantKept : Prop :=
  ∀ s t : State, FaultInv s → Step2Inv s → step s = .next t → FaultInv t ∧ Step2Inv t

/-- 42 R315: every step keeps alternation: within one epoch consecutive Schedule events name different halves. -/
def Obligations.AlternationKept : Prop :=
  ∀ s t : State, AlternationInv s → step s = .next t → AlternationInv t

/-- The reset state of every well-formed configuration meets every invariant. -/
def Obligations.ResetMeetsInvariants : Prop :=
  ∀ c : Config, c.wellFormed = true → BlockInv (State.resetWith c)

/-- Every invariant of the block together is kept by every step. -/
def Obligations.BlockInvariantKept : Prop :=
  ∀ s t : State, BlockInv s → step s = .next t → BlockInv t
end

