-- ==== Sys2Proof/Laws/Decode.lean ====
section
/-! SUPPORT. The fields of a command word: reading a field of joined fields gives the field back, and the fields of a
word joined give the word back (spec/30_encoding.md R130). -/

namespace Sys2Proof

@[simp] theorem opcodeOf_joinFields (o b : BitVec 4) (i : BitVec 8) (v : BitVec 16) :
    opcodeOf (joinFields o b i v) = o := by
  unfold opcodeOf joinFields
  ext k hk
  simp only [BitVec.getElem_extractLsb', BitVec.getLsbD_append]
  have h1 : ¬ 28 + k < 16 := by omega
  have h2 : ¬ 28 + k - 16 < 8 := by omega
  have h3 : ¬ 28 + k - 16 - 8 < 4 := by omega
  have h4 : 28 + k - 16 - 8 - 4 = k := by omega
  simp [h1, h2, h3, h4, BitVec.getLsbD_eq_getElem hk]

@[simp] theorem subOf_joinFields (o b : BitVec 4) (i : BitVec 8) (v : BitVec 16) :
    subOf (joinFields o b i v) = b := by
  unfold subOf joinFields
  ext k hk
  simp only [BitVec.getElem_extractLsb', BitVec.getLsbD_append]
  have h1 : ¬ 24 + k < 16 := by omega
  have h2 : ¬ 24 + k - 16 < 8 := by omega
  have h3 : 24 + k - 16 - 8 < 4 := by omega
  have h4 : 24 + k - 16 - 8 = k := by omega
  simp [h1, h2, h4, hk]

@[simp] theorem indexOf_joinFields (o b : BitVec 4) (i : BitVec 8) (v : BitVec 16) :
    indexOf (joinFields o b i v) = i := by
  unfold indexOf joinFields
  ext k hk
  simp only [BitVec.getElem_extractLsb', BitVec.getLsbD_append]
  have h1 : ¬ 16 + k < 16 := by omega
  have h4 : 16 + k - 16 = k := by omega
  simp [h1, h4, hk]

@[simp] theorem valueOf_joinFields (o b : BitVec 4) (i : BitVec 8) (v : BitVec 16) :
    valueOf (joinFields o b i v) = v := by
  unfold valueOf joinFields
  ext k hk
  simp only [BitVec.getElem_extractLsb', BitVec.getLsbD_append]
  simp [hk]

/-- A word is its four fields joined. -/
theorem joinFields_fields (w : Word) : joinFields (opcodeOf w) (subOf w) (indexOf w) (valueOf w) = w := by
  unfold opcodeOf subOf indexOf valueOf joinFields
  ext k hk
  simp only [BitVec.getElem_append, BitVec.getElem_extractLsb']
  split
  · simp [BitVec.getLsbD_eq_getElem hk]
  · split
    · rw [← BitVec.getLsbD_eq_getElem hk]; congr 1; omega
    · split
      · rw [← BitVec.getLsbD_eq_getElem hk]; congr 1; omega
      · rw [← BitVec.getLsbD_eq_getElem hk]; congr 1; omega

/-- Joined fields are equal iff their fields are. -/
theorem joinFields_inj {o b o' b' : BitVec 4} {i i' : BitVec 8} {v v' : BitVec 16} :
    joinFields o b i v = joinFields o' b' i' v' ↔ o = o' ∧ b = b' ∧ i = i' ∧ v = v' := by
  constructor
  · intro h
    refine ⟨?_, ?_, ?_, ?_⟩
    · simpa using congrArg opcodeOf h
    · simpa using congrArg subOf h
    · simpa using congrArg indexOf h
    · simpa using congrArg valueOf h
  · rintro ⟨rfl, rfl, rfl, rfl⟩; rfl

/-- A mask of joined fields masks each field. -/
theorem and_joinFields (o b o' b' : BitVec 4) (i i' : BitVec 8) (v v' : BitVec 16) :
    joinFields o b i v &&& joinFields o' b' i' v' = joinFields (o &&& o') (b &&& b') (i &&& i') (v &&& v') := by
  unfold joinFields
  have h : ∀ {m n : Nat} (x x' : BitVec m) (y y' : BitVec n), (x ++ y) &&& (x' ++ y') = (x &&& x') ++ (y &&& y') := by
    intro m n x x' y y'
    ext k hk
    simp only [BitVec.getElem_and, BitVec.getElem_append]
    split <;> rfl
  exact (h (o ++ b ++ i) (o' ++ b' ++ i') v v').trans
    (congrArg (· ++ (v &&& v')) ((h (o ++ b) (o' ++ b') i i').trans (congrArg (· ++ (i &&& i')) (h o o' b b'))))

/-- What the decoder of format N answers. -/
theorem formatN_eq_instr {w : Word} {i j : Instr} :
    formatN w i = .instr j ↔ (subOf w = 0 ∧ indexOf w = 0 ∧ valueOf w = 0) ∧ i = j := by
  unfold formatN; split <;> simp_all

/-- What the decoder of format M answers. -/
theorem formatM_eq_instr {w : Word} {mk : BitVec 4 → Instr} {j : Instr} :
    formatM w mk = .instr j ↔ (indexOf w = 0 ∧ valueOf w = 0) ∧ mk (subOf w) = j := by
  unfold formatM; split <;> simp_all

/-- What the decoder of format I answers. -/
theorem formatI_eq_instr {w : Word} {mk : BitVec 8 → Instr} {j : Instr} :
    formatI w mk = .instr j ↔ (subOf w = 0 ∧ valueOf w = 0) ∧ mk (indexOf w) = j := by
  unfold formatI; split <;> simp_all

/-- What the decoder of format IV answers. -/
theorem formatIV_eq_instr {w : Word} {mk : BitVec 8 → BitVec 16 → Instr} {j : Instr} :
    formatIV w mk = .instr j ↔ subOf w = 0 ∧ mk (indexOf w) (valueOf w) = j := by
  unfold formatIV; split <;> simp_all

/-! The row each opcode selects (30 R138). -/

theorem decode_opcode1 {w : Word} (h : opcodeOf w = 1) : decode w = formatN w .init := by
  unfold decode; rw [h]; rfl

theorem decode_opcode2 {w : Word} (h : opcodeOf w = 2) : decode w = formatM w .setMode := by
  unfold decode; rw [h]; rfl

theorem decode_opcode3 {w : Word} (h : opcodeOf w = 3) : decode w = formatN w .getMode := by
  unfold decode; rw [h]; rfl

theorem decode_opcode4 {w : Word} (h : opcodeOf w = 4) : decode w = formatM w .setPower := by
  unfold decode; rw [h]; rfl

theorem decode_opcode5 {w : Word} (h : opcodeOf w = 5) : decode w = formatN w .getPower := by
  unfold decode; rw [h]; rfl

theorem decode_opcode6 {w : Word} (h : opcodeOf w = 6) : decode w = formatIV w .regWrite := by
  unfold decode; rw [h]; rfl

theorem decode_opcode7 {w : Word} (h : opcodeOf w = 7) : decode w = formatI w .regRead := by
  unfold decode; rw [h]; rfl

theorem decode_opcode8 {w : Word} (h : opcodeOf w = 8) : decode w = formatIV w .regSet := by
  unfold decode; rw [h]; rfl

theorem decode_opcode9 {w : Word} (h : opcodeOf w = 9) : decode w = formatN w .regFlush := by
  unfold decode; rw [h]; rfl

theorem decode_opcode10 {w : Word} (h : opcodeOf w = 10) : decode w = formatN w .schedStep := by
  unfold decode; rw [h]; rfl

theorem decode_opcode11 {w : Word} (h : opcodeOf w = 11) : decode w = formatN w .queryStart := by
  unfold decode; rw [h]; rfl

theorem decode_opcode12 {w : Word} (h : opcodeOf w = 12) : decode w = formatN w .getStatus := by
  unfold decode; rw [h]; rfl

theorem decode_opcode0 {w : Word} (h : opcodeOf w = 0) : decode w = .bad .illegalOpcode := by
  unfold decode; rw [h]; rfl

theorem decode_opcode13 {w : Word} (h : opcodeOf w = 13) : decode w = .bad .illegalOpcode := by
  unfold decode; rw [h]; rfl

theorem decode_opcode14 {w : Word} (h : opcodeOf w = 14) : decode w = .bad .illegalOpcode := by
  unfold decode; rw [h]; rfl

theorem decode_opcode15 {w : Word} (h : opcodeOf w = 15) : decode w = .bad .illegalOpcode := by
  unfold decode; rw [h]; rfl

/-- The sixteen opcodes. -/
theorem opcode_cases (o : BitVec 4) :
    o = 0 ∨ o = 1 ∨ o = 2 ∨ o = 3 ∨ o = 4 ∨ o = 5 ∨ o = 6 ∨ o = 7 ∨ o = 8 ∨ o = 9 ∨ o = 10 ∨ o = 11 ∨ o = 12 ∨
      o = 13 ∨ o = 14 ∨ o = 15 := by
  revert o; decide

/-! The fields of a word as numbers (30 R130). -/

theorem opcodeOf_toNat (w : Word) : (opcodeOf w).toNat = w.toNat / 2 ^ 28 := by
  simp [opcodeOf, BitVec.extractLsb'_toNat, Nat.shiftRight_eq_div_pow]
  omega

theorem subOf_toNat (w : Word) : (subOf w).toNat = w.toNat / 2 ^ 24 % 16 := by
  simp [subOf, BitVec.extractLsb'_toNat, Nat.shiftRight_eq_div_pow]

theorem indexOf_toNat (w : Word) : (indexOf w).toNat = w.toNat / 2 ^ 16 % 256 := by
  simp [indexOf, BitVec.extractLsb'_toNat, Nat.shiftRight_eq_div_pow]

theorem valueOf_toNat (w : Word) : (valueOf w).toNat = w.toNat % 65536 := by
  simp [valueOf, BitVec.extractLsb'_toNat, Nat.shiftRight_eq_div_pow]

end Sys2Proof
end

