-- ==== Sys2Proof/Laws/Memory.lean ====
section
/-! SUPPORT. The laws of byte storage: a write keeps the canonical form and the range, a read inside the written bytes
gives the byte written, and a read outside gives what it gave before (spec/00_scope.md R17). -/

namespace Sys2Proof.Machine

theorem cellsFrom_keys (a : Nat) (bytes : List Byte) :
    ∀ cell ∈ cellsFrom a bytes, a ≤ cell.1 ∧ cell.1 < a + bytes.length := by
  induction bytes generalizing a with
  | nil => simp [cellsFrom]
  | cons b rest ih =>
    intro cell hc
    simp only [cellsFrom, List.mem_cons] at hc
    rcases hc with rfl | hc
    · simp
    · have := ih (a + 1) cell hc
      simp only [List.length_cons]
      omega

theorem cellsFrom_wf (a : Nat) (bytes : List Byte) : Memory.wf (cellsFrom a bytes) := by
  induction bytes generalizing a with
  | nil => exact List.Pairwise.nil
  | cons b rest ih =>
    unfold Memory.wf at *
    simp only [cellsFrom, List.map_cons, List.pairwise_cons, List.mem_map]
    refine ⟨?_, ih (a + 1)⟩
    rintro k ⟨cell, hc, rfl⟩
    have := (cellsFrom_keys (a + 1) rest cell hc).1
    omega

theorem Memory.wf_filter {m : Memory} (h : Memory.wf m) (p : Host.Cell → Bool) : Memory.wf (m.filter p) :=
  List.Pairwise.sublist (List.filter_sublist.map Prod.fst) h

/-- A write keeps the canonical form. -/
theorem memWrite_wf {m : Memory} (h : Memory.wf m) (a : Nat) (bytes : List Byte) : Memory.wf (memWrite m a bytes) := by
  unfold memWrite Memory.wf
  simp only [List.map_append, List.pairwise_append, List.mem_append, List.mem_map, List.mem_filter, decide_eq_true_eq]
  refine ⟨⟨Memory.wf_filter h _, cellsFrom_wf a bytes, ?_⟩, Memory.wf_filter h _, ?_⟩
  · rintro x ⟨c, ⟨-, hc⟩, rfl⟩ y ⟨d, hd, rfl⟩
    have := (cellsFrom_keys a bytes d hd).1
    omega
  · rintro x (⟨c, ⟨-, hc⟩, rfl⟩ | ⟨c, hc, rfl⟩) y ⟨d, ⟨-, hd⟩, rfl⟩
    · omega
    · have := (cellsFrom_keys a bytes c hc).2
      omega

/-- A write below `n` keeps every address below `n`. -/
theorem memWrite_range {m : Memory} {n a : Nat} {bytes : List Byte} (h : ∀ cell ∈ m, cell.1 < n)
    (hw : a + bytes.length ≤ n) : ∀ cell ∈ memWrite m a bytes, cell.1 < n := by
  intro cell hc
  simp only [memWrite, List.mem_append, List.mem_filter] at hc
  rcases hc with (⟨hc, -⟩ | hc) | ⟨hc, -⟩
  · exact h cell hc
  · have := (cellsFrom_keys a bytes cell hc).2
    omega
  · exact h cell hc

theorem byteAt_append (m m' : Memory) (k : Nat) :
    byteAt (m ++ m') k = (byteAt m k).or (byteAt m' k) := by
  induction m with
  | nil => simp [byteAt]
  | cons cell rest ih =>
    simp only [List.cons_append, byteAt]
    split
    · simp
    · exact ih

/-- Dropping cells at other addresses does not change what an address holds. -/
theorem byteAt_filter (m : Memory) (p : Host.Cell → Bool) (k : Nat) (hp : ∀ b, p (k, b) = true) :
    byteAt (m.filter p) k = byteAt m k := by
  induction m with
  | nil => rfl
  | cons cell rest ih =>
    by_cases hk : cell.1 = k
    · have : p cell = true := by
        have := hp cell.2
        rwa [← hk] at this
      simp [this, byteAt, hk]
    · by_cases hpc : p cell = true
      · simp [hpc, byteAt, hk, ih]
      · simp [hpc, byteAt, hk, ih]

/-- Dropping every cell at an address leaves it undefined. -/
theorem byteAt_filter_none (m : Memory) (p : Host.Cell → Bool) (k : Nat) (hp : ∀ b, p (k, b) = false) :
    byteAt (m.filter p) k = none := by
  induction m with
  | nil => rfl
  | cons cell rest ih =>
    by_cases hpc : p cell = true
    · have hk : cell.1 ≠ k := by
        rintro rfl
        rw [hp cell.2] at hpc
        exact Bool.noConfusion hpc
      simp [hpc, byteAt, hk, ih]
    · simp [hpc, ih]

theorem byteAt_cellsFrom (a : Nat) (bytes : List Byte) (k : Nat) :
    byteAt (cellsFrom a bytes) k = if a ≤ k then bytes[k - a]? else none := by
  induction bytes generalizing a with
  | nil => simp [cellsFrom, byteAt]
  | cons b rest ih =>
    simp only [cellsFrom, byteAt, ih]
    by_cases h : a = k
    · subst h; simp
    · rw [if_neg h]
      by_cases h1 : a + 1 ≤ k
      · have h2 : a ≤ k := by omega
        rw [if_pos h1, if_pos h2]
        have : k - a = (k - (a + 1)) + 1 := by omega
        rw [this]; rfl
      · have h2 : ¬ a ≤ k := by omega
        rw [if_neg h1, if_neg h2]

/-- What an address holds after a write: the written byte inside the range, what it held outside. -/
theorem byteAt_memWrite (m : Memory) (a : Nat) (bytes : List Byte) (k : Nat) :
    byteAt (memWrite m a bytes) k = if a ≤ k ∧ k < a + bytes.length then bytes[k - a]? else byteAt m k := by
  unfold memWrite
  rw [byteAt_append, byteAt_append, byteAt_cellsFrom]
  by_cases h1 : a ≤ k
  · have e1 : byteAt (m.filter fun cell => decide (cell.1 < a)) k = none :=
      byteAt_filter_none _ _ _ (by intro b; simp; omega)
    rw [e1, if_pos h1]
    by_cases h2 : k < a + bytes.length
    · have hlt : k - a < bytes.length := by omega
      rw [if_pos ⟨h1, h2⟩, List.getElem?_eq_getElem hlt]; rfl
    · have hge : bytes.length ≤ k - a := by omega
      have e2 : byteAt (m.filter fun cell => decide (a + bytes.length ≤ cell.1)) k = byteAt m k :=
        byteAt_filter _ _ _ (by intro b; simp; omega)
      rw [if_neg (by omega), List.getElem?_eq_none hge, e2]; rfl
  · have e1 : byteAt (m.filter fun cell => decide (cell.1 < a)) k = byteAt m k :=
      byteAt_filter _ _ _ (by intro b; simp; omega)
    have e2 : byteAt (m.filter fun cell => decide (a + bytes.length ≤ cell.1)) k = none :=
      byteAt_filter_none _ _ _ (by intro b; simp; omega)
    rw [e1, e2, if_neg h1, if_neg (by omega)]
    simp

@[simp] theorem drawBytes_length (k n : Nat) : (drawBytes k n).length = n := by simp [drawBytes]

@[simp] theorem memRead_length (m : Memory) (k a n : Nat) : (memRead m k a n).length = n := by simp [memRead]

/-- The environment supplies exactly the bytes a step asks for. -/
@[simp] theorem suppliedBytes_length (k n : Nat) (given : List Byte) : (suppliedBytes k n given).length = n := by
  simp [suppliedBytes]; omega

/-- An environment that supplies n bytes supplies just those. -/
theorem suppliedBytes_exact (k : Nat) (given : List Byte) : suppliedBytes k given.length given = given := by
  simp [suppliedBytes, drawBytes]

/-- A read of defined bytes is what the store holds. -/
theorem memRead_defined (m : Memory) (k a n j : Nat) (b : Byte) (hj : j < n) (h : byteAt m (a + j) = some b) :
    (memRead m k a n)[j]? = some b := by
  simp [memRead, hj, h]

end Sys2Proof.Machine
end

