-- ==== Sys2Proof/Laws/State.lean ====
section
/-! SUPPORT. What each named update of the state does to each field: one lemma per field per update. A field whose value
needs words of its own (the chip's registers, the descriptor queues, the lines after drive_lines, the reset values) is
in Laws/Ops.lean. -/

namespace Sys2Proof.Machine

variable (s : State)

/-! ### emit -/

@[simp] theorem emit_cfg (e : Event) : (emit e s).cfg = s.cfg := rfl
@[simp] theorem emit_seq (e : Event) : (emit e s).seq = s.seq := rfl
@[simp] theorem emit_mode (e : Event) : (emit e s).mode = s.mode := rfl
@[simp] theorem emit_lines (e : Event) : (emit e s).lines = s.lines := rfl
@[simp] theorem emit_offset (e : Event) : (emit e s).offset = s.offset := rfl
@[simp] theorem emit_phase (e : Event) : (emit e s).phase = s.phase := rfl
@[simp] theorem emit_clkEn (e : Event) : (emit e s).clkEn = s.clkEn := rfl
@[simp] theorem emit_fillPending (e : Event) : (emit e s).fillPending = s.fillPending := rfl
@[simp] theorem emit_bufReady (e : Event) : (emit e s).bufReady = s.bufReady := rfl
@[simp] theorem emit_faultCode (e : Event) : (emit e s).faultCode = s.faultCode := rfl
@[simp] theorem emit_faultWord (e : Event) : (emit e s).faultWord = s.faultWord := rfl
@[simp] theorem emit_epoch (e : Event) : (emit e s).epoch = s.epoch := rfl
@[simp] theorem emit_xrunCount (e : Event) : (emit e s).xrunCount = s.xrunCount := rfl
@[simp] theorem emit_cache (e : Event) : (emit e s).cache = s.cache := rfl
@[simp] theorem emit_dirty (e : Event) : (emit e s).dirty = s.dirty := rfl
@[simp] theorem emit_buf (e : Event) : (emit e s).buf = s.buf := rfl
@[simp] theorem emit_port (e : Event) : (emit e s).port = s.port := rfl
@[simp] theorem emit_inq (e : Event) : (emit e s).inq = s.inq := rfl
@[simp] theorem emit_outq (e : Event) : (emit e s).outq = s.outq := rfl
@[simp] theorem emit_cmdq (e : Event) : (emit e s).cmdq = s.cmdq := rfl
@[simp] theorem emit_rspq (e : Event) : (emit e s).rspq = s.rspq := rfl
@[simp] theorem emit_chipreg (e : Event) : (emit e s).chipreg = s.chipreg := rfl
@[simp] theorem emit_events (e : Event) : (emit e s).events = s.events ++ [e] := rfl
@[simp] theorem emit_agenda (e : Event) : (emit e s).agenda = s.agenda := rfl
@[simp] theorem emit_draws (e : Event) : (emit e s).draws = s.draws := rfl

/-! ### countDraws -/

@[simp] theorem countDraws_cfg (n : Nat) : (countDraws n s).cfg = s.cfg := rfl
@[simp] theorem countDraws_seq (n : Nat) : (countDraws n s).seq = s.seq := rfl
@[simp] theorem countDraws_mode (n : Nat) : (countDraws n s).mode = s.mode := rfl
@[simp] theorem countDraws_lines (n : Nat) : (countDraws n s).lines = s.lines := rfl
@[simp] theorem countDraws_offset (n : Nat) : (countDraws n s).offset = s.offset := rfl
@[simp] theorem countDraws_phase (n : Nat) : (countDraws n s).phase = s.phase := rfl
@[simp] theorem countDraws_clkEn (n : Nat) : (countDraws n s).clkEn = s.clkEn := rfl
@[simp] theorem countDraws_fillPending (n : Nat) : (countDraws n s).fillPending = s.fillPending := rfl
@[simp] theorem countDraws_bufReady (n : Nat) : (countDraws n s).bufReady = s.bufReady := rfl
@[simp] theorem countDraws_faultCode (n : Nat) : (countDraws n s).faultCode = s.faultCode := rfl
@[simp] theorem countDraws_faultWord (n : Nat) : (countDraws n s).faultWord = s.faultWord := rfl
@[simp] theorem countDraws_epoch (n : Nat) : (countDraws n s).epoch = s.epoch := rfl
@[simp] theorem countDraws_xrunCount (n : Nat) : (countDraws n s).xrunCount = s.xrunCount := rfl
@[simp] theorem countDraws_cache (n : Nat) : (countDraws n s).cache = s.cache := rfl
@[simp] theorem countDraws_dirty (n : Nat) : (countDraws n s).dirty = s.dirty := rfl
@[simp] theorem countDraws_buf (n : Nat) : (countDraws n s).buf = s.buf := rfl
@[simp] theorem countDraws_port (n : Nat) : (countDraws n s).port = s.port := rfl
@[simp] theorem countDraws_inq (n : Nat) : (countDraws n s).inq = s.inq := rfl
@[simp] theorem countDraws_outq (n : Nat) : (countDraws n s).outq = s.outq := rfl
@[simp] theorem countDraws_cmdq (n : Nat) : (countDraws n s).cmdq = s.cmdq := rfl
@[simp] theorem countDraws_rspq (n : Nat) : (countDraws n s).rspq = s.rspq := rfl
@[simp] theorem countDraws_chipreg (n : Nat) : (countDraws n s).chipreg = s.chipreg := rfl
@[simp] theorem countDraws_events (n : Nat) : (countDraws n s).events = s.events := rfl
@[simp] theorem countDraws_agenda (n : Nat) : (countDraws n s).agenda = s.agenda := rfl
@[simp] theorem countDraws_draws (n : Nat) : (countDraws n s).draws = s.draws + n := rfl

/-! ### respond -/

@[simp] theorem respond_cfg (w : Word) : (respond w s).cfg = s.cfg := rfl
@[simp] theorem respond_seq (w : Word) : (respond w s).seq = s.seq := rfl
@[simp] theorem respond_mode (w : Word) : (respond w s).mode = s.mode := rfl
@[simp] theorem respond_lines (w : Word) : (respond w s).lines = s.lines := rfl
@[simp] theorem respond_offset (w : Word) : (respond w s).offset = s.offset := rfl
@[simp] theorem respond_phase (w : Word) : (respond w s).phase = s.phase := rfl
@[simp] theorem respond_clkEn (w : Word) : (respond w s).clkEn = s.clkEn := rfl
@[simp] theorem respond_fillPending (w : Word) : (respond w s).fillPending = s.fillPending := rfl
@[simp] theorem respond_bufReady (w : Word) : (respond w s).bufReady = s.bufReady := rfl
@[simp] theorem respond_faultCode (w : Word) : (respond w s).faultCode = s.faultCode := rfl
@[simp] theorem respond_faultWord (w : Word) : (respond w s).faultWord = s.faultWord := rfl
@[simp] theorem respond_epoch (w : Word) : (respond w s).epoch = s.epoch := rfl
@[simp] theorem respond_xrunCount (w : Word) : (respond w s).xrunCount = s.xrunCount := rfl
@[simp] theorem respond_cache (w : Word) : (respond w s).cache = s.cache := rfl
@[simp] theorem respond_dirty (w : Word) : (respond w s).dirty = s.dirty := rfl
@[simp] theorem respond_buf (w : Word) : (respond w s).buf = s.buf := rfl
@[simp] theorem respond_port (w : Word) : (respond w s).port = s.port := rfl
@[simp] theorem respond_inq (w : Word) : (respond w s).inq = s.inq := rfl
@[simp] theorem respond_outq (w : Word) : (respond w s).outq = s.outq := rfl
@[simp] theorem respond_cmdq (w : Word) : (respond w s).cmdq = s.cmdq := rfl
@[simp] theorem respond_rspq (w : Word) : (respond w s).rspq = s.rspq ++ [w] := rfl
@[simp] theorem respond_chipreg (w : Word) : (respond w s).chipreg = s.chipreg := rfl
@[simp] theorem respond_events (w : Word) : (respond w s).events = s.events ++ [.resp w] := rfl
@[simp] theorem respond_agenda (w : Word) : (respond w s).agenda = s.agenda := rfl
@[simp] theorem respond_draws (w : Word) : (respond w s).draws = s.draws := rfl

/-! ### raiseFault -/

@[simp] theorem raiseFault_cfg (f : FaultCode) (w : Word) : (raiseFault f w s).cfg = s.cfg := rfl
@[simp] theorem raiseFault_seq (f : FaultCode) (w : Word) : (raiseFault f w s).seq = .halted := rfl
@[simp] theorem raiseFault_mode (f : FaultCode) (w : Word) : (raiseFault f w s).mode = s.mode := rfl
@[simp] theorem raiseFault_lines (f : FaultCode) (w : Word) : (raiseFault f w s).lines = s.lines := rfl
@[simp] theorem raiseFault_offset (f : FaultCode) (w : Word) : (raiseFault f w s).offset = s.offset := rfl
@[simp] theorem raiseFault_phase (f : FaultCode) (w : Word) : (raiseFault f w s).phase = s.phase := rfl
@[simp] theorem raiseFault_clkEn (f : FaultCode) (w : Word) : (raiseFault f w s).clkEn = s.clkEn := rfl
@[simp] theorem raiseFault_fillPending (f : FaultCode) (w : Word) : (raiseFault f w s).fillPending = s.fillPending := rfl
@[simp] theorem raiseFault_bufReady (f : FaultCode) (w : Word) : (raiseFault f w s).bufReady = s.bufReady := rfl
@[simp] theorem raiseFault_faultCode (f : FaultCode) (w : Word) : (raiseFault f w s).faultCode = faultNumber f := rfl
@[simp] theorem raiseFault_faultWord (f : FaultCode) (w : Word) : (raiseFault f w s).faultWord = w := rfl
@[simp] theorem raiseFault_epoch (f : FaultCode) (w : Word) : (raiseFault f w s).epoch = s.epoch := rfl
@[simp] theorem raiseFault_xrunCount (f : FaultCode) (w : Word) : (raiseFault f w s).xrunCount = s.xrunCount := rfl
@[simp] theorem raiseFault_cache (f : FaultCode) (w : Word) : (raiseFault f w s).cache = s.cache := rfl
@[simp] theorem raiseFault_dirty (f : FaultCode) (w : Word) : (raiseFault f w s).dirty = s.dirty := rfl
@[simp] theorem raiseFault_buf (f : FaultCode) (w : Word) : (raiseFault f w s).buf = s.buf := rfl
@[simp] theorem raiseFault_port (f : FaultCode) (w : Word) : (raiseFault f w s).port = s.port := rfl
@[simp] theorem raiseFault_inq (f : FaultCode) (w : Word) : (raiseFault f w s).inq = s.inq := rfl
@[simp] theorem raiseFault_outq (f : FaultCode) (w : Word) : (raiseFault f w s).outq = s.outq := rfl
@[simp] theorem raiseFault_cmdq (f : FaultCode) (w : Word) : (raiseFault f w s).cmdq = s.cmdq := rfl
@[simp] theorem raiseFault_rspq (f : FaultCode) (w : Word) : (raiseFault f w s).rspq = s.rspq := rfl
@[simp] theorem raiseFault_chipreg (f : FaultCode) (w : Word) : (raiseFault f w s).chipreg = s.chipreg := rfl
@[simp] theorem raiseFault_events (f : FaultCode) (w : Word) : (raiseFault f w s).events = s.events ++ [.fault f w] := rfl
@[simp] theorem raiseFault_agenda (f : FaultCode) (w : Word) : (raiseFault f w s).agenda = s.agenda := rfl
@[simp] theorem raiseFault_draws (f : FaultCode) (w : Word) : (raiseFault f w s).draws = s.draws := rfl

/-! ### setCache -/

@[simp] theorem setCache_cfg (i : Nat) (v : RegVal) : (setCache i v s).cfg = s.cfg := rfl
@[simp] theorem setCache_seq (i : Nat) (v : RegVal) : (setCache i v s).seq = s.seq := rfl
@[simp] theorem setCache_mode (i : Nat) (v : RegVal) : (setCache i v s).mode = s.mode := rfl
@[simp] theorem setCache_lines (i : Nat) (v : RegVal) : (setCache i v s).lines = s.lines := rfl
@[simp] theorem setCache_offset (i : Nat) (v : RegVal) : (setCache i v s).offset = s.offset := rfl
@[simp] theorem setCache_phase (i : Nat) (v : RegVal) : (setCache i v s).phase = s.phase := rfl
@[simp] theorem setCache_clkEn (i : Nat) (v : RegVal) : (setCache i v s).clkEn = s.clkEn := rfl
@[simp] theorem setCache_fillPending (i : Nat) (v : RegVal) : (setCache i v s).fillPending = s.fillPending := rfl
@[simp] theorem setCache_bufReady (i : Nat) (v : RegVal) : (setCache i v s).bufReady = s.bufReady := rfl
@[simp] theorem setCache_faultCode (i : Nat) (v : RegVal) : (setCache i v s).faultCode = s.faultCode := rfl
@[simp] theorem setCache_faultWord (i : Nat) (v : RegVal) : (setCache i v s).faultWord = s.faultWord := rfl
@[simp] theorem setCache_epoch (i : Nat) (v : RegVal) : (setCache i v s).epoch = s.epoch := rfl
@[simp] theorem setCache_xrunCount (i : Nat) (v : RegVal) : (setCache i v s).xrunCount = s.xrunCount := rfl
@[simp] theorem setCache_cache (i : Nat) (v : RegVal) : (setCache i v s).cache = s.cache.set i v := rfl
@[simp] theorem setCache_dirty (i : Nat) (v : RegVal) : (setCache i v s).dirty = s.dirty := rfl
@[simp] theorem setCache_buf (i : Nat) (v : RegVal) : (setCache i v s).buf = s.buf := rfl
@[simp] theorem setCache_port (i : Nat) (v : RegVal) : (setCache i v s).port = s.port := rfl
@[simp] theorem setCache_inq (i : Nat) (v : RegVal) : (setCache i v s).inq = s.inq := rfl
@[simp] theorem setCache_outq (i : Nat) (v : RegVal) : (setCache i v s).outq = s.outq := rfl
@[simp] theorem setCache_cmdq (i : Nat) (v : RegVal) : (setCache i v s).cmdq = s.cmdq := rfl
@[simp] theorem setCache_rspq (i : Nat) (v : RegVal) : (setCache i v s).rspq = s.rspq := rfl
@[simp] theorem setCache_chipreg (i : Nat) (v : RegVal) : (setCache i v s).chipreg = s.chipreg := rfl
@[simp] theorem setCache_events (i : Nat) (v : RegVal) : (setCache i v s).events = s.events := rfl
@[simp] theorem setCache_agenda (i : Nat) (v : RegVal) : (setCache i v s).agenda = s.agenda := rfl
@[simp] theorem setCache_draws (i : Nat) (v : RegVal) : (setCache i v s).draws = s.draws := rfl

/-! ### setDirty -/

@[simp] theorem setDirty_cfg (i : Nat) (b : Bool) : (setDirty i b s).cfg = s.cfg := rfl
@[simp] theorem setDirty_seq (i : Nat) (b : Bool) : (setDirty i b s).seq = s.seq := rfl
@[simp] theorem setDirty_mode (i : Nat) (b : Bool) : (setDirty i b s).mode = s.mode := rfl
@[simp] theorem setDirty_lines (i : Nat) (b : Bool) : (setDirty i b s).lines = s.lines := rfl
@[simp] theorem setDirty_offset (i : Nat) (b : Bool) : (setDirty i b s).offset = s.offset := rfl
@[simp] theorem setDirty_phase (i : Nat) (b : Bool) : (setDirty i b s).phase = s.phase := rfl
@[simp] theorem setDirty_clkEn (i : Nat) (b : Bool) : (setDirty i b s).clkEn = s.clkEn := rfl
@[simp] theorem setDirty_fillPending (i : Nat) (b : Bool) : (setDirty i b s).fillPending = s.fillPending := rfl
@[simp] theorem setDirty_bufReady (i : Nat) (b : Bool) : (setDirty i b s).bufReady = s.bufReady := rfl
@[simp] theorem setDirty_faultCode (i : Nat) (b : Bool) : (setDirty i b s).faultCode = s.faultCode := rfl
@[simp] theorem setDirty_faultWord (i : Nat) (b : Bool) : (setDirty i b s).faultWord = s.faultWord := rfl
@[simp] theorem setDirty_epoch (i : Nat) (b : Bool) : (setDirty i b s).epoch = s.epoch := rfl
@[simp] theorem setDirty_xrunCount (i : Nat) (b : Bool) : (setDirty i b s).xrunCount = s.xrunCount := rfl
@[simp] theorem setDirty_cache (i : Nat) (b : Bool) : (setDirty i b s).cache = s.cache := rfl
@[simp] theorem setDirty_dirty (i : Nat) (b : Bool) : (setDirty i b s).dirty = s.dirty.set i b := rfl
@[simp] theorem setDirty_buf (i : Nat) (b : Bool) : (setDirty i b s).buf = s.buf := rfl
@[simp] theorem setDirty_port (i : Nat) (b : Bool) : (setDirty i b s).port = s.port := rfl
@[simp] theorem setDirty_inq (i : Nat) (b : Bool) : (setDirty i b s).inq = s.inq := rfl
@[simp] theorem setDirty_outq (i : Nat) (b : Bool) : (setDirty i b s).outq = s.outq := rfl
@[simp] theorem setDirty_cmdq (i : Nat) (b : Bool) : (setDirty i b s).cmdq = s.cmdq := rfl
@[simp] theorem setDirty_rspq (i : Nat) (b : Bool) : (setDirty i b s).rspq = s.rspq := rfl
@[simp] theorem setDirty_chipreg (i : Nat) (b : Bool) : (setDirty i b s).chipreg = s.chipreg := rfl
@[simp] theorem setDirty_events (i : Nat) (b : Bool) : (setDirty i b s).events = s.events := rfl
@[simp] theorem setDirty_agenda (i : Nat) (b : Bool) : (setDirty i b s).agenda = s.agenda := rfl
@[simp] theorem setDirty_draws (i : Nat) (b : Bool) : (setDirty i b s).draws = s.draws := rfl

/-! ### driveLine -/

@[simp] theorem driveLine_cfg (l : Line) (v : Bool) : (driveLine l v s).cfg = s.cfg := rfl
@[simp] theorem driveLine_seq (l : Line) (v : Bool) : (driveLine l v s).seq = s.seq := rfl
@[simp] theorem driveLine_mode (l : Line) (v : Bool) : (driveLine l v s).mode = s.mode := rfl
@[simp] theorem driveLine_lines (l : Line) (v : Bool) : (driveLine l v s).lines = setLine l v s.lines := rfl
@[simp] theorem driveLine_offset (l : Line) (v : Bool) : (driveLine l v s).offset = s.offset := rfl
@[simp] theorem driveLine_phase (l : Line) (v : Bool) : (driveLine l v s).phase = s.phase := rfl
@[simp] theorem driveLine_clkEn (l : Line) (v : Bool) : (driveLine l v s).clkEn = s.clkEn := rfl
@[simp] theorem driveLine_fillPending (l : Line) (v : Bool) : (driveLine l v s).fillPending = s.fillPending := rfl
@[simp] theorem driveLine_bufReady (l : Line) (v : Bool) : (driveLine l v s).bufReady = s.bufReady := rfl
@[simp] theorem driveLine_faultCode (l : Line) (v : Bool) : (driveLine l v s).faultCode = s.faultCode := rfl
@[simp] theorem driveLine_faultWord (l : Line) (v : Bool) : (driveLine l v s).faultWord = s.faultWord := rfl
@[simp] theorem driveLine_epoch (l : Line) (v : Bool) : (driveLine l v s).epoch = s.epoch := rfl
@[simp] theorem driveLine_xrunCount (l : Line) (v : Bool) : (driveLine l v s).xrunCount = s.xrunCount := rfl
@[simp] theorem driveLine_cache (l : Line) (v : Bool) : (driveLine l v s).cache = s.cache := rfl
@[simp] theorem driveLine_dirty (l : Line) (v : Bool) : (driveLine l v s).dirty = s.dirty := rfl
@[simp] theorem driveLine_buf (l : Line) (v : Bool) : (driveLine l v s).buf = s.buf := rfl
@[simp] theorem driveLine_port (l : Line) (v : Bool) : (driveLine l v s).port = s.port := rfl
@[simp] theorem driveLine_inq (l : Line) (v : Bool) : (driveLine l v s).inq = s.inq := rfl
@[simp] theorem driveLine_outq (l : Line) (v : Bool) : (driveLine l v s).outq = s.outq := rfl
@[simp] theorem driveLine_cmdq (l : Line) (v : Bool) : (driveLine l v s).cmdq = s.cmdq := rfl
@[simp] theorem driveLine_rspq (l : Line) (v : Bool) : (driveLine l v s).rspq = s.rspq := rfl
@[simp] theorem driveLine_chipreg (l : Line) (v : Bool) : (driveLine l v s).chipreg = s.chipreg := rfl
@[simp] theorem driveLine_events (l : Line) (v : Bool) : (driveLine l v s).events = s.events ++ [.lineWrite l v] := rfl
@[simp] theorem driveLine_agenda (l : Line) (v : Bool) : (driveLine l v s).agenda = s.agenda := rfl
@[simp] theorem driveLine_draws (l : Line) (v : Bool) : (driveLine l v s).draws = s.draws := rfl

/-! ### setClock -/

@[simp] theorem setClock_cfg (v : Bool) : (setClock v s).cfg = s.cfg := rfl
@[simp] theorem setClock_seq (v : Bool) : (setClock v s).seq = s.seq := rfl
@[simp] theorem setClock_mode (v : Bool) : (setClock v s).mode = s.mode := rfl
@[simp] theorem setClock_lines (v : Bool) : (setClock v s).lines = s.lines := rfl
@[simp] theorem setClock_offset (v : Bool) : (setClock v s).offset = s.offset := rfl
@[simp] theorem setClock_phase (v : Bool) : (setClock v s).phase = s.phase := rfl
@[simp] theorem setClock_clkEn (v : Bool) : (setClock v s).clkEn = v := rfl
@[simp] theorem setClock_fillPending (v : Bool) : (setClock v s).fillPending = s.fillPending := rfl
@[simp] theorem setClock_bufReady (v : Bool) : (setClock v s).bufReady = s.bufReady := rfl
@[simp] theorem setClock_faultCode (v : Bool) : (setClock v s).faultCode = s.faultCode := rfl
@[simp] theorem setClock_faultWord (v : Bool) : (setClock v s).faultWord = s.faultWord := rfl
@[simp] theorem setClock_epoch (v : Bool) : (setClock v s).epoch = s.epoch := rfl
@[simp] theorem setClock_xrunCount (v : Bool) : (setClock v s).xrunCount = s.xrunCount := rfl
@[simp] theorem setClock_cache (v : Bool) : (setClock v s).cache = s.cache := rfl
@[simp] theorem setClock_dirty (v : Bool) : (setClock v s).dirty = s.dirty := rfl
@[simp] theorem setClock_buf (v : Bool) : (setClock v s).buf = s.buf := rfl
@[simp] theorem setClock_port (v : Bool) : (setClock v s).port = s.port := rfl
@[simp] theorem setClock_inq (v : Bool) : (setClock v s).inq = s.inq := rfl
@[simp] theorem setClock_outq (v : Bool) : (setClock v s).outq = s.outq := rfl
@[simp] theorem setClock_cmdq (v : Bool) : (setClock v s).cmdq = s.cmdq := rfl
@[simp] theorem setClock_rspq (v : Bool) : (setClock v s).rspq = s.rspq := rfl
@[simp] theorem setClock_chipreg (v : Bool) : (setClock v s).chipreg = s.chipreg := rfl
@[simp] theorem setClock_events (v : Bool) : (setClock v s).events = s.events ++ [.clockEnable v] := rfl
@[simp] theorem setClock_agenda (v : Bool) : (setClock v s).agenda = s.agenda := rfl
@[simp] theorem setClock_draws (v : Bool) : (setClock v s).draws = s.draws := rfl

/-! ### clearPort -/

@[simp] theorem clearPort_cfg : (clearPort s).cfg = s.cfg := rfl
@[simp] theorem clearPort_seq : (clearPort s).seq = s.seq := rfl
@[simp] theorem clearPort_mode : (clearPort s).mode = s.mode := rfl
@[simp] theorem clearPort_lines : (clearPort s).lines = s.lines := rfl
@[simp] theorem clearPort_offset : (clearPort s).offset = s.offset := rfl
@[simp] theorem clearPort_phase : (clearPort s).phase = s.phase := rfl
@[simp] theorem clearPort_clkEn : (clearPort s).clkEn = s.clkEn := rfl
@[simp] theorem clearPort_fillPending : (clearPort s).fillPending = s.fillPending := rfl
@[simp] theorem clearPort_bufReady : (clearPort s).bufReady = s.bufReady := rfl
@[simp] theorem clearPort_faultCode : (clearPort s).faultCode = s.faultCode := rfl
@[simp] theorem clearPort_faultWord : (clearPort s).faultWord = s.faultWord := rfl
@[simp] theorem clearPort_epoch : (clearPort s).epoch = s.epoch := rfl
@[simp] theorem clearPort_xrunCount : (clearPort s).xrunCount = s.xrunCount := rfl
@[simp] theorem clearPort_cache : (clearPort s).cache = s.cache := rfl
@[simp] theorem clearPort_dirty : (clearPort s).dirty = s.dirty := rfl
@[simp] theorem clearPort_buf : (clearPort s).buf = s.buf := rfl
@[simp] theorem clearPort_port : (clearPort s).port = List.replicate s.cfg.portWords (some 0) := rfl
@[simp] theorem clearPort_inq : (clearPort s).inq = s.inq := rfl
@[simp] theorem clearPort_outq : (clearPort s).outq = s.outq := rfl
@[simp] theorem clearPort_cmdq : (clearPort s).cmdq = s.cmdq := rfl
@[simp] theorem clearPort_rspq : (clearPort s).rspq = s.rspq := rfl
@[simp] theorem clearPort_chipreg : (clearPort s).chipreg = s.chipreg := rfl
@[simp] theorem clearPort_events : (clearPort s).events = s.events ++ [.portClear] := rfl
@[simp] theorem clearPort_agenda : (clearPort s).agenda = s.agenda := rfl
@[simp] theorem clearPort_draws : (clearPort s).draws = s.draws := rfl

/-! ### writePort -/

@[simp] theorem writePort_cfg (k : Nat) (w : Word) : (writePort k w s).cfg = s.cfg := rfl
@[simp] theorem writePort_seq (k : Nat) (w : Word) : (writePort k w s).seq = s.seq := rfl
@[simp] theorem writePort_mode (k : Nat) (w : Word) : (writePort k w s).mode = s.mode := rfl
@[simp] theorem writePort_lines (k : Nat) (w : Word) : (writePort k w s).lines = s.lines := rfl
@[simp] theorem writePort_offset (k : Nat) (w : Word) : (writePort k w s).offset = s.offset := rfl
@[simp] theorem writePort_phase (k : Nat) (w : Word) : (writePort k w s).phase = s.phase := rfl
@[simp] theorem writePort_clkEn (k : Nat) (w : Word) : (writePort k w s).clkEn = s.clkEn := rfl
@[simp] theorem writePort_fillPending (k : Nat) (w : Word) : (writePort k w s).fillPending = s.fillPending := rfl
@[simp] theorem writePort_bufReady (k : Nat) (w : Word) : (writePort k w s).bufReady = s.bufReady := rfl
@[simp] theorem writePort_faultCode (k : Nat) (w : Word) : (writePort k w s).faultCode = s.faultCode := rfl
@[simp] theorem writePort_faultWord (k : Nat) (w : Word) : (writePort k w s).faultWord = s.faultWord := rfl
@[simp] theorem writePort_epoch (k : Nat) (w : Word) : (writePort k w s).epoch = s.epoch := rfl
@[simp] theorem writePort_xrunCount (k : Nat) (w : Word) : (writePort k w s).xrunCount = s.xrunCount := rfl
@[simp] theorem writePort_cache (k : Nat) (w : Word) : (writePort k w s).cache = s.cache := rfl
@[simp] theorem writePort_dirty (k : Nat) (w : Word) : (writePort k w s).dirty = s.dirty := rfl
@[simp] theorem writePort_buf (k : Nat) (w : Word) : (writePort k w s).buf = s.buf := rfl
@[simp] theorem writePort_port (k : Nat) (w : Word) : (writePort k w s).port = s.port.set k (some w) := rfl
@[simp] theorem writePort_inq (k : Nat) (w : Word) : (writePort k w s).inq = s.inq := rfl
@[simp] theorem writePort_outq (k : Nat) (w : Word) : (writePort k w s).outq = s.outq := rfl
@[simp] theorem writePort_cmdq (k : Nat) (w : Word) : (writePort k w s).cmdq = s.cmdq := rfl
@[simp] theorem writePort_rspq (k : Nat) (w : Word) : (writePort k w s).rspq = s.rspq := rfl
@[simp] theorem writePort_chipreg (k : Nat) (w : Word) : (writePort k w s).chipreg = s.chipreg := rfl
@[simp] theorem writePort_events (k : Nat) (w : Word) : (writePort k w s).events = s.events ++ [.portWrite k w] := rfl
@[simp] theorem writePort_agenda (k : Nat) (w : Word) : (writePort k w s).agenda = s.agenda := rfl
@[simp] theorem writePort_draws (k : Nat) (w : Word) : (writePort k w s).draws = s.draws := rfl

/-! ### countXrun -/

@[simp] theorem countXrun_cfg (o : Nat) (h : Half) : (countXrun o h s).cfg = s.cfg := rfl
@[simp] theorem countXrun_seq (o : Nat) (h : Half) : (countXrun o h s).seq = s.seq := rfl
@[simp] theorem countXrun_mode (o : Nat) (h : Half) : (countXrun o h s).mode = s.mode := rfl
@[simp] theorem countXrun_lines (o : Nat) (h : Half) : (countXrun o h s).lines = s.lines := rfl
@[simp] theorem countXrun_offset (o : Nat) (h : Half) : (countXrun o h s).offset = s.offset := rfl
@[simp] theorem countXrun_phase (o : Nat) (h : Half) : (countXrun o h s).phase = s.phase := rfl
@[simp] theorem countXrun_clkEn (o : Nat) (h : Half) : (countXrun o h s).clkEn = s.clkEn := rfl
@[simp] theorem countXrun_fillPending (o : Nat) (h : Half) : (countXrun o h s).fillPending = s.fillPending := rfl
@[simp] theorem countXrun_bufReady (o : Nat) (h : Half) : (countXrun o h s).bufReady = s.bufReady := rfl
@[simp] theorem countXrun_faultCode (o : Nat) (h : Half) : (countXrun o h s).faultCode = s.faultCode := rfl
@[simp] theorem countXrun_faultWord (o : Nat) (h : Half) : (countXrun o h s).faultWord = s.faultWord := rfl
@[simp] theorem countXrun_epoch (o : Nat) (h : Half) : (countXrun o h s).epoch = s.epoch := rfl
@[simp] theorem countXrun_xrunCount (o : Nat) (h : Half) : (countXrun o h s).xrunCount = bumpXrun s.xrunCount := rfl
@[simp] theorem countXrun_cache (o : Nat) (h : Half) : (countXrun o h s).cache = s.cache := rfl
@[simp] theorem countXrun_dirty (o : Nat) (h : Half) : (countXrun o h s).dirty = s.dirty := rfl
@[simp] theorem countXrun_buf (o : Nat) (h : Half) : (countXrun o h s).buf = s.buf := rfl
@[simp] theorem countXrun_port (o : Nat) (h : Half) : (countXrun o h s).port = s.port := rfl
@[simp] theorem countXrun_inq (o : Nat) (h : Half) : (countXrun o h s).inq = s.inq := rfl
@[simp] theorem countXrun_outq (o : Nat) (h : Half) : (countXrun o h s).outq = s.outq := rfl
@[simp] theorem countXrun_cmdq (o : Nat) (h : Half) : (countXrun o h s).cmdq = s.cmdq := rfl
@[simp] theorem countXrun_rspq (o : Nat) (h : Half) : (countXrun o h s).rspq = s.rspq := rfl
@[simp] theorem countXrun_chipreg (o : Nat) (h : Half) : (countXrun o h s).chipreg = s.chipreg := rfl
@[simp] theorem countXrun_events (o : Nat) (h : Half) : (countXrun o h s).events = s.events ++ [.xrun o h] := rfl
@[simp] theorem countXrun_agenda (o : Nat) (h : Half) : (countXrun o h s).agenda = s.agenda := rfl
@[simp] theorem countXrun_draws (o : Nat) (h : Half) : (countXrun o h s).draws = s.draws := rfl

/-! ### busRead -/

@[simp] theorem busRead_cfg (i : Nat) : (busRead i s).cfg = s.cfg := rfl
@[simp] theorem busRead_seq (i : Nat) : (busRead i s).seq = s.seq := rfl
@[simp] theorem busRead_mode (i : Nat) : (busRead i s).mode = s.mode := rfl
@[simp] theorem busRead_lines (i : Nat) : (busRead i s).lines = s.lines := rfl
@[simp] theorem busRead_offset (i : Nat) : (busRead i s).offset = s.offset := rfl
@[simp] theorem busRead_phase (i : Nat) : (busRead i s).phase = s.phase := rfl
@[simp] theorem busRead_clkEn (i : Nat) : (busRead i s).clkEn = s.clkEn := rfl
@[simp] theorem busRead_fillPending (i : Nat) : (busRead i s).fillPending = s.fillPending := rfl
@[simp] theorem busRead_bufReady (i : Nat) : (busRead i s).bufReady = s.bufReady := rfl
@[simp] theorem busRead_faultCode (i : Nat) : (busRead i s).faultCode = s.faultCode := rfl
@[simp] theorem busRead_faultWord (i : Nat) : (busRead i s).faultWord = s.faultWord := rfl
@[simp] theorem busRead_epoch (i : Nat) : (busRead i s).epoch = s.epoch := rfl
@[simp] theorem busRead_xrunCount (i : Nat) : (busRead i s).xrunCount = s.xrunCount := rfl
@[simp] theorem busRead_cache (i : Nat) : (busRead i s).cache = s.cache := rfl
@[simp] theorem busRead_dirty (i : Nat) : (busRead i s).dirty = s.dirty := rfl
@[simp] theorem busRead_buf (i : Nat) : (busRead i s).buf = s.buf := rfl
@[simp] theorem busRead_port (i : Nat) : (busRead i s).port = s.port := rfl
@[simp] theorem busRead_inq (i : Nat) : (busRead i s).inq = s.inq := rfl
@[simp] theorem busRead_outq (i : Nat) : (busRead i s).outq = s.outq := rfl
@[simp] theorem busRead_cmdq (i : Nat) : (busRead i s).cmdq = s.cmdq := rfl
@[simp] theorem busRead_rspq (i : Nat) : (busRead i s).rspq = s.rspq := rfl
@[simp] theorem busRead_chipreg (i : Nat) : (busRead i s).chipreg = s.chipreg := rfl
@[simp] theorem busRead_events (i : Nat) : (busRead i s).events = s.events ++ [.busFrame (rframe s.cfg i) (chipAnswer s i)] := rfl
@[simp] theorem busRead_agenda (i : Nat) : (busRead i s).agenda = s.agenda := rfl
@[simp] theorem busRead_draws (i : Nat) : (busRead i s).draws = s.draws + 1 := rfl

/-! ### chipStore -/

@[simp] theorem chipStore_cfg (i : Nat) (v : RegVal) : (chipStore i v s).cfg = s.cfg := by unfold chipStore; split <;> rfl
@[simp] theorem chipStore_seq (i : Nat) (v : RegVal) : (chipStore i v s).seq = s.seq := by unfold chipStore; split <;> rfl
@[simp] theorem chipStore_mode (i : Nat) (v : RegVal) : (chipStore i v s).mode = s.mode := by unfold chipStore; split <;> rfl
@[simp] theorem chipStore_lines (i : Nat) (v : RegVal) : (chipStore i v s).lines = s.lines := by unfold chipStore; split <;> rfl
@[simp] theorem chipStore_offset (i : Nat) (v : RegVal) : (chipStore i v s).offset = s.offset := by unfold chipStore; split <;> rfl
@[simp] theorem chipStore_phase (i : Nat) (v : RegVal) : (chipStore i v s).phase = s.phase := by unfold chipStore; split <;> rfl
@[simp] theorem chipStore_clkEn (i : Nat) (v : RegVal) : (chipStore i v s).clkEn = s.clkEn := by unfold chipStore; split <;> rfl
@[simp] theorem chipStore_fillPending (i : Nat) (v : RegVal) : (chipStore i v s).fillPending = s.fillPending := by unfold chipStore; split <;> rfl
@[simp] theorem chipStore_bufReady (i : Nat) (v : RegVal) : (chipStore i v s).bufReady = s.bufReady := by unfold chipStore; split <;> rfl
@[simp] theorem chipStore_faultCode (i : Nat) (v : RegVal) : (chipStore i v s).faultCode = s.faultCode := by unfold chipStore; split <;> rfl
@[simp] theorem chipStore_faultWord (i : Nat) (v : RegVal) : (chipStore i v s).faultWord = s.faultWord := by unfold chipStore; split <;> rfl
@[simp] theorem chipStore_epoch (i : Nat) (v : RegVal) : (chipStore i v s).epoch = s.epoch := by unfold chipStore; split <;> rfl
@[simp] theorem chipStore_xrunCount (i : Nat) (v : RegVal) : (chipStore i v s).xrunCount = s.xrunCount := by unfold chipStore; split <;> rfl
@[simp] theorem chipStore_cache (i : Nat) (v : RegVal) : (chipStore i v s).cache = s.cache := by unfold chipStore; split <;> rfl
@[simp] theorem chipStore_dirty (i : Nat) (v : RegVal) : (chipStore i v s).dirty = s.dirty := by unfold chipStore; split <;> rfl
@[simp] theorem chipStore_buf (i : Nat) (v : RegVal) : (chipStore i v s).buf = s.buf := by unfold chipStore; split <;> rfl
@[simp] theorem chipStore_port (i : Nat) (v : RegVal) : (chipStore i v s).port = s.port := by unfold chipStore; split <;> rfl
@[simp] theorem chipStore_inq (i : Nat) (v : RegVal) : (chipStore i v s).inq = s.inq := by unfold chipStore; split <;> rfl
@[simp] theorem chipStore_outq (i : Nat) (v : RegVal) : (chipStore i v s).outq = s.outq := by unfold chipStore; split <;> rfl
@[simp] theorem chipStore_cmdq (i : Nat) (v : RegVal) : (chipStore i v s).cmdq = s.cmdq := by unfold chipStore; split <;> rfl
@[simp] theorem chipStore_rspq (i : Nat) (v : RegVal) : (chipStore i v s).rspq = s.rspq := by unfold chipStore; split <;> rfl
@[simp] theorem chipStore_events (i : Nat) (v : RegVal) : (chipStore i v s).events = s.events := by unfold chipStore; split <;> rfl
@[simp] theorem chipStore_agenda (i : Nat) (v : RegVal) : (chipStore i v s).agenda = s.agenda := by unfold chipStore; split <;> rfl
@[simp] theorem chipStore_draws (i : Nat) (v : RegVal) : (chipStore i v s).draws = s.draws := by unfold chipStore; split <;> rfl

/-! ### busWrite -/

@[simp] theorem busWrite_cfg (i : Nat) (v : RegVal) : (busWrite i v s).cfg = s.cfg := by simp [busWrite]
@[simp] theorem busWrite_seq (i : Nat) (v : RegVal) : (busWrite i v s).seq = s.seq := by simp [busWrite]
@[simp] theorem busWrite_mode (i : Nat) (v : RegVal) : (busWrite i v s).mode = s.mode := by simp [busWrite]
@[simp] theorem busWrite_lines (i : Nat) (v : RegVal) : (busWrite i v s).lines = s.lines := by simp [busWrite]
@[simp] theorem busWrite_offset (i : Nat) (v : RegVal) : (busWrite i v s).offset = s.offset := by simp [busWrite]
@[simp] theorem busWrite_phase (i : Nat) (v : RegVal) : (busWrite i v s).phase = s.phase := by simp [busWrite]
@[simp] theorem busWrite_clkEn (i : Nat) (v : RegVal) : (busWrite i v s).clkEn = s.clkEn := by simp [busWrite]
@[simp] theorem busWrite_fillPending (i : Nat) (v : RegVal) : (busWrite i v s).fillPending = s.fillPending := by simp [busWrite]
@[simp] theorem busWrite_bufReady (i : Nat) (v : RegVal) : (busWrite i v s).bufReady = s.bufReady := by simp [busWrite]
@[simp] theorem busWrite_faultCode (i : Nat) (v : RegVal) : (busWrite i v s).faultCode = s.faultCode := by simp [busWrite]
@[simp] theorem busWrite_faultWord (i : Nat) (v : RegVal) : (busWrite i v s).faultWord = s.faultWord := by simp [busWrite]
@[simp] theorem busWrite_epoch (i : Nat) (v : RegVal) : (busWrite i v s).epoch = s.epoch := by simp [busWrite]
@[simp] theorem busWrite_xrunCount (i : Nat) (v : RegVal) : (busWrite i v s).xrunCount = s.xrunCount := by simp [busWrite]
@[simp] theorem busWrite_cache (i : Nat) (v : RegVal) : (busWrite i v s).cache = s.cache := by simp [busWrite]
@[simp] theorem busWrite_dirty (i : Nat) (v : RegVal) : (busWrite i v s).dirty = s.dirty := by simp [busWrite]
@[simp] theorem busWrite_buf (i : Nat) (v : RegVal) : (busWrite i v s).buf = s.buf := by simp [busWrite]
@[simp] theorem busWrite_port (i : Nat) (v : RegVal) : (busWrite i v s).port = s.port := by simp [busWrite]
@[simp] theorem busWrite_inq (i : Nat) (v : RegVal) : (busWrite i v s).inq = s.inq := by simp [busWrite]
@[simp] theorem busWrite_outq (i : Nat) (v : RegVal) : (busWrite i v s).outq = s.outq := by simp [busWrite]
@[simp] theorem busWrite_cmdq (i : Nat) (v : RegVal) : (busWrite i v s).cmdq = s.cmdq := by simp [busWrite]
@[simp] theorem busWrite_rspq (i : Nat) (v : RegVal) : (busWrite i v s).rspq = s.rspq := by simp [busWrite]
@[simp] theorem busWrite_chipreg (i : Nat) (v : RegVal) : (busWrite i v s).chipreg = (chipStore i v s).chipreg := by simp [busWrite]
@[simp] theorem busWrite_events (i : Nat) (v : RegVal) : (busWrite i v s).events = s.events ++ [.busFrame (wframe s.cfg i v) 0] := by simp [busWrite]
@[simp] theorem busWrite_agenda (i : Nat) (v : RegVal) : (busWrite i v s).agenda = s.agenda := by simp [busWrite]
@[simp] theorem busWrite_draws (i : Nat) (v : RegVal) : (busWrite i v s).draws = s.draws := by simp [busWrite]

/-! ### pushDescriptor -/

@[simp] theorem pushDescriptor_cfg (d : Descriptor) : (pushDescriptor d s).cfg = s.cfg := by unfold pushDescriptor; split <;> rfl
@[simp] theorem pushDescriptor_seq (d : Descriptor) : (pushDescriptor d s).seq = s.seq := by unfold pushDescriptor; split <;> rfl
@[simp] theorem pushDescriptor_mode (d : Descriptor) : (pushDescriptor d s).mode = s.mode := by unfold pushDescriptor; split <;> rfl
@[simp] theorem pushDescriptor_lines (d : Descriptor) : (pushDescriptor d s).lines = s.lines := by unfold pushDescriptor; split <;> rfl
@[simp] theorem pushDescriptor_offset (d : Descriptor) : (pushDescriptor d s).offset = s.offset := by unfold pushDescriptor; split <;> rfl
@[simp] theorem pushDescriptor_phase (d : Descriptor) : (pushDescriptor d s).phase = s.phase := by unfold pushDescriptor; split <;> rfl
@[simp] theorem pushDescriptor_clkEn (d : Descriptor) : (pushDescriptor d s).clkEn = s.clkEn := by unfold pushDescriptor; split <;> rfl
@[simp] theorem pushDescriptor_fillPending (d : Descriptor) : (pushDescriptor d s).fillPending = s.fillPending := by unfold pushDescriptor; split <;> rfl
@[simp] theorem pushDescriptor_bufReady (d : Descriptor) : (pushDescriptor d s).bufReady = s.bufReady := by unfold pushDescriptor; split <;> rfl
@[simp] theorem pushDescriptor_faultCode (d : Descriptor) : (pushDescriptor d s).faultCode = s.faultCode := by unfold pushDescriptor; split <;> rfl
@[simp] theorem pushDescriptor_faultWord (d : Descriptor) : (pushDescriptor d s).faultWord = s.faultWord := by unfold pushDescriptor; split <;> rfl
@[simp] theorem pushDescriptor_epoch (d : Descriptor) : (pushDescriptor d s).epoch = s.epoch := by unfold pushDescriptor; split <;> rfl
@[simp] theorem pushDescriptor_xrunCount (d : Descriptor) : (pushDescriptor d s).xrunCount = s.xrunCount := by unfold pushDescriptor; split <;> rfl
@[simp] theorem pushDescriptor_cache (d : Descriptor) : (pushDescriptor d s).cache = s.cache := by unfold pushDescriptor; split <;> rfl
@[simp] theorem pushDescriptor_dirty (d : Descriptor) : (pushDescriptor d s).dirty = s.dirty := by unfold pushDescriptor; split <;> rfl
@[simp] theorem pushDescriptor_buf (d : Descriptor) : (pushDescriptor d s).buf = s.buf := by unfold pushDescriptor; split <;> rfl
@[simp] theorem pushDescriptor_port (d : Descriptor) : (pushDescriptor d s).port = s.port := by unfold pushDescriptor; split <;> rfl
@[simp] theorem pushDescriptor_cmdq (d : Descriptor) : (pushDescriptor d s).cmdq = s.cmdq := by unfold pushDescriptor; split <;> rfl
@[simp] theorem pushDescriptor_rspq (d : Descriptor) : (pushDescriptor d s).rspq = s.rspq := by unfold pushDescriptor; split <;> rfl
@[simp] theorem pushDescriptor_chipreg (d : Descriptor) : (pushDescriptor d s).chipreg = s.chipreg := by unfold pushDescriptor; split <;> rfl
@[simp] theorem pushDescriptor_events (d : Descriptor) : (pushDescriptor d s).events = s.events ++ [.schedule d] := by unfold pushDescriptor; split <;> rfl
@[simp] theorem pushDescriptor_agenda (d : Descriptor) : (pushDescriptor d s).agenda = s.agenda := by unfold pushDescriptor; split <;> rfl
@[simp] theorem pushDescriptor_draws (d : Descriptor) : (pushDescriptor d s).draws = s.draws := by unfold pushDescriptor; split <;> rfl

/-! ### scheduleHalf -/

@[simp] theorem scheduleHalf_cfg (h : Half) : (scheduleHalf h s).cfg = s.cfg := by simp [scheduleHalf]
@[simp] theorem scheduleHalf_seq (h : Half) : (scheduleHalf h s).seq = s.seq := by simp [scheduleHalf]
@[simp] theorem scheduleHalf_mode (h : Half) : (scheduleHalf h s).mode = s.mode := by simp [scheduleHalf]
@[simp] theorem scheduleHalf_lines (h : Half) : (scheduleHalf h s).lines = s.lines := by simp [scheduleHalf]
@[simp] theorem scheduleHalf_offset (h : Half) : (scheduleHalf h s).offset = s.offset := by simp [scheduleHalf]
@[simp] theorem scheduleHalf_phase (h : Half) : (scheduleHalf h s).phase = h := by simp [scheduleHalf]
@[simp] theorem scheduleHalf_clkEn (h : Half) : (scheduleHalf h s).clkEn = s.clkEn := by simp [scheduleHalf]
@[simp] theorem scheduleHalf_fillPending (h : Half) : (scheduleHalf h s).fillPending = s.fillPending := by simp [scheduleHalf]
@[simp] theorem scheduleHalf_bufReady (h : Half) : (scheduleHalf h s).bufReady = s.bufReady := by simp [scheduleHalf]
@[simp] theorem scheduleHalf_faultCode (h : Half) : (scheduleHalf h s).faultCode = s.faultCode := by simp [scheduleHalf]
@[simp] theorem scheduleHalf_faultWord (h : Half) : (scheduleHalf h s).faultWord = s.faultWord := by simp [scheduleHalf]
@[simp] theorem scheduleHalf_epoch (h : Half) : (scheduleHalf h s).epoch = s.epoch := by simp [scheduleHalf]
@[simp] theorem scheduleHalf_xrunCount (h : Half) : (scheduleHalf h s).xrunCount = s.xrunCount := by simp [scheduleHalf]
@[simp] theorem scheduleHalf_cache (h : Half) : (scheduleHalf h s).cache = s.cache := by simp [scheduleHalf]
@[simp] theorem scheduleHalf_dirty (h : Half) : (scheduleHalf h s).dirty = s.dirty := by simp [scheduleHalf]
@[simp] theorem scheduleHalf_buf (h : Half) : (scheduleHalf h s).buf = s.buf := by simp [scheduleHalf]
@[simp] theorem scheduleHalf_port (h : Half) : (scheduleHalf h s).port = s.port := by simp [scheduleHalf]
@[simp] theorem scheduleHalf_cmdq (h : Half) : (scheduleHalf h s).cmdq = s.cmdq := by simp [scheduleHalf]
@[simp] theorem scheduleHalf_rspq (h : Half) : (scheduleHalf h s).rspq = s.rspq := by simp [scheduleHalf]
@[simp] theorem scheduleHalf_chipreg (h : Half) : (scheduleHalf h s).chipreg = s.chipreg := by simp [scheduleHalf]
@[simp] theorem scheduleHalf_agenda (h : Half) : (scheduleHalf h s).agenda = s.agenda := by simp [scheduleHalf]
@[simp] theorem scheduleHalf_draws (h : Half) : (scheduleHalf h s).draws = s.draws := by simp [scheduleHalf]

/-! ### dropTurn -/

@[simp] theorem dropTurn_cfg : (dropTurn s).cfg = s.cfg := rfl
@[simp] theorem dropTurn_seq : (dropTurn s).seq = s.seq := rfl
@[simp] theorem dropTurn_mode : (dropTurn s).mode = s.mode := rfl
@[simp] theorem dropTurn_lines : (dropTurn s).lines = s.lines := rfl
@[simp] theorem dropTurn_offset : (dropTurn s).offset = s.offset := rfl
@[simp] theorem dropTurn_phase : (dropTurn s).phase = s.phase := rfl
@[simp] theorem dropTurn_clkEn : (dropTurn s).clkEn = s.clkEn := rfl
@[simp] theorem dropTurn_fillPending : (dropTurn s).fillPending = s.fillPending := rfl
@[simp] theorem dropTurn_bufReady : (dropTurn s).bufReady = s.bufReady := rfl
@[simp] theorem dropTurn_faultCode : (dropTurn s).faultCode = s.faultCode := rfl
@[simp] theorem dropTurn_faultWord : (dropTurn s).faultWord = s.faultWord := rfl
@[simp] theorem dropTurn_epoch : (dropTurn s).epoch = s.epoch := rfl
@[simp] theorem dropTurn_xrunCount : (dropTurn s).xrunCount = s.xrunCount := rfl
@[simp] theorem dropTurn_cache : (dropTurn s).cache = s.cache := rfl
@[simp] theorem dropTurn_dirty : (dropTurn s).dirty = s.dirty := rfl
@[simp] theorem dropTurn_buf : (dropTurn s).buf = s.buf := rfl
@[simp] theorem dropTurn_port : (dropTurn s).port = s.port := rfl
@[simp] theorem dropTurn_inq : (dropTurn s).inq = s.inq := rfl
@[simp] theorem dropTurn_outq : (dropTurn s).outq = s.outq := rfl
@[simp] theorem dropTurn_cmdq : (dropTurn s).cmdq = s.cmdq := rfl
@[simp] theorem dropTurn_rspq : (dropTurn s).rspq = s.rspq := rfl
@[simp] theorem dropTurn_chipreg : (dropTurn s).chipreg = s.chipreg := rfl
@[simp] theorem dropTurn_events : (dropTurn s).events = s.events := rfl
@[simp] theorem dropTurn_agenda : (dropTurn s).agenda = s.agenda.tail := rfl
@[simp] theorem dropTurn_draws : (dropTurn s).draws = s.draws := rfl

/-! ### placeWord -/

@[simp] theorem placeWord_cfg (w : Word) : (placeWord w s).cfg = s.cfg := rfl
@[simp] theorem placeWord_seq (w : Word) : (placeWord w s).seq = s.seq := rfl
@[simp] theorem placeWord_mode (w : Word) : (placeWord w s).mode = s.mode := rfl
@[simp] theorem placeWord_lines (w : Word) : (placeWord w s).lines = s.lines := rfl
@[simp] theorem placeWord_offset (w : Word) : (placeWord w s).offset = s.offset := rfl
@[simp] theorem placeWord_phase (w : Word) : (placeWord w s).phase = s.phase := rfl
@[simp] theorem placeWord_clkEn (w : Word) : (placeWord w s).clkEn = s.clkEn := rfl
@[simp] theorem placeWord_fillPending (w : Word) : (placeWord w s).fillPending = s.fillPending := rfl
@[simp] theorem placeWord_bufReady (w : Word) : (placeWord w s).bufReady = s.bufReady := rfl
@[simp] theorem placeWord_faultCode (w : Word) : (placeWord w s).faultCode = s.faultCode := rfl
@[simp] theorem placeWord_faultWord (w : Word) : (placeWord w s).faultWord = s.faultWord := rfl
@[simp] theorem placeWord_epoch (w : Word) : (placeWord w s).epoch = s.epoch := rfl
@[simp] theorem placeWord_xrunCount (w : Word) : (placeWord w s).xrunCount = s.xrunCount := rfl
@[simp] theorem placeWord_cache (w : Word) : (placeWord w s).cache = s.cache := rfl
@[simp] theorem placeWord_dirty (w : Word) : (placeWord w s).dirty = s.dirty := rfl
@[simp] theorem placeWord_buf (w : Word) : (placeWord w s).buf = s.buf := rfl
@[simp] theorem placeWord_port (w : Word) : (placeWord w s).port = s.port := rfl
@[simp] theorem placeWord_inq (w : Word) : (placeWord w s).inq = s.inq := rfl
@[simp] theorem placeWord_outq (w : Word) : (placeWord w s).outq = s.outq := rfl
@[simp] theorem placeWord_cmdq (w : Word) : (placeWord w s).cmdq = w :: s.cmdq.tail := rfl
@[simp] theorem placeWord_rspq (w : Word) : (placeWord w s).rspq = s.rspq := rfl
@[simp] theorem placeWord_chipreg (w : Word) : (placeWord w s).chipreg = s.chipreg := rfl
@[simp] theorem placeWord_events (w : Word) : (placeWord w s).events = s.events := rfl
@[simp] theorem placeWord_agenda (w : Word) : (placeWord w s).agenda = s.agenda := rfl
@[simp] theorem placeWord_draws (w : Word) : (placeWord w s).draws = s.draws := rfl

/-! ### resetBlock -/

@[simp] theorem resetBlock_cfg : (resetBlock s).cfg = s.cfg := rfl
@[simp] theorem resetBlock_chipreg : (resetBlock s).chipreg = s.chipreg := rfl
@[simp] theorem resetBlock_agenda : (resetBlock s).agenda = s.agenda := rfl
@[simp] theorem resetBlock_draws : (resetBlock s).draws = s.draws := rfl

end Sys2Proof.Machine
end

