-- ==== Sys2Proof/Laws/Ops.lean ====
section
/-! SUPPORT. What each shared operation does as a whole, said once, so that callers need not unfold it: fault entry
(spec/60_exceptions.md R325), reset (70 R373), drive_lines (41 R221), the chip and the bus (40 R183), scheduling
(42 R280), and the mode entries and exit (41 R233 to R237). -/

namespace Sys2Proof.Machine

variable (s : State)

/-- Fault entry writes the three fault fields and one event. -/
theorem raiseFault_eq (f : FaultCode) (w : Word) :
    raiseFault f w s =
      { s with faultCode := faultNumber f, faultWord := w, seq := .halted, events := s.events ++ [.fault f w] } := rfl

theorem faultNumber_ne_zero (f : FaultCode) : faultNumber f ≠ 0 := by cases f <;> decide

theorem faultNumber_le (f : FaultCode) : (faultNumber f).toNat ≤ 8 := by cases f <;> decide

/-- Setting all three lines leaves no trace of what they were. -/
theorem lines_after_writes (p : Power) (l : BitVec 3) :
    (lineWrites p).foldl (fun l w => setLine w.1 w.2 l) l = finalLines p := by
  revert l
  cases p <;> decide

/-- drive_lines(p) writes LINES and three events. -/
theorem driveLines_eq (p : Power) :
    driveLines p s = { s with lines := finalLines p, events := s.events ++ lineEvents p } := by
  rw [← lines_after_writes p s.lines]
  cases p <;> simp [driveLines, lineWrites, driveLine, emit, lineEvents]

theorem finalLines_legal (p : Power) : legalLines (finalLines p) = true := by cases p <;> decide

/-- The chip's registers after a write frame. -/
theorem chipStore_eq (i : Nat) (v : RegVal) :
    chipStore i v s =
      { s with chipreg := if s.cfg.chipResponse = .echo then s.chipreg.set i (some (maskValue s.cfg v)) else s.chipreg } := by
  unfold chipStore
  split <;> simp_all

/-- bus_write(i, v) touches the chip's registers and adds one frame. -/
theorem busWrite_eq (i : Nat) (v : RegVal) :
    busWrite i v s =
      { s with
        chipreg := if s.cfg.chipResponse = .echo then s.chipreg.set i (some (maskValue s.cfg v)) else s.chipreg
        events := s.events ++ [.busFrame (wframe s.cfg i v) 0] } := by
  simp [busWrite, chipStore_eq, emit]

/-- A push goes to the queue of the descriptor's direction. -/
theorem pushDescriptor_eq (d : Descriptor) :
    pushDescriptor d s =
      { s with
        inq := if d.dir = .inn then s.inq ++ [d] else s.inq
        outq := if d.dir = .out then s.outq ++ [d] else s.outq
        events := s.events ++ [.schedule d] } := by
  unfold pushDescriptor
  split <;> simp_all [emit]

/-- The exit: clock off, fill wait dropped, a new epoch, the buffer state reset. -/
theorem exitStream_eq :
    exitStream s =
      { s with
        clkEn := false, fillPending := false, epoch := s.epoch + 1, offset := 0, phase := 0
        events := s.events ++ [.clockEnable false] } := rfl

/-- The RECEIVE entry. -/
theorem rxEntry_eq :
    rxEntry s =
      { s with
        port := List.replicate s.cfg.portWords (some 0), offset := BitVec.ofNat 20 (s.cfg.cap - s.cfg.rxMargin)
        phase := 1, clkEn := true, events := s.events ++ [.portClear] ++ [.clockEnable true] } := rfl

/-- The TRANSMIT entry. -/
theorem txEntry_eq :
    txEntry s =
      { s with
        offset := BitVec.ofNat 20 s.cfg.cap, phase := 0, fillPending := true
        outq := s.outq ++ [{ dir := .out, half := 0, kind := .fill, epoch := s.epoch, tainted := false }]
        events := s.events ++
          [.schedule { dir := .out, half := 0, kind := .fill, epoch := s.epoch, tainted := false }] } := rfl

/-- The priming and the start of the clock. -/
theorem primeAndStart_eq :
    primeAndStart s =
      { s with
        offset := 0, draws := s.draws + 8, clkEn := true, fillPending := false
        port := (s.port.set s.cfg.primeSlot0 (some (primeWord s.buf s.draws 0))).set s.cfg.primeSlot1
          (some (primeWord s.buf s.draws 1))
        events := s.events ++ [.portWrite s.cfg.primeSlot0 (primeWord s.buf s.draws 0)] ++
          [.portWrite s.cfg.primeSlot1 (primeWord s.buf s.draws 1)] ++ [.clockEnable true] } := rfl

/-! ### Reading the register file after a write -/

theorem getD_set {α : Type} (l : List α) (i j : Nat) (v d : α) (h : i < l.length) :
    (l.set i v).getD j d = if j = i then v else l.getD j d := by
  simp only [List.getD_eq_getElem?_getD, List.getElem?_set]
  by_cases hij : i = j
  · subst hij; simp [h]
  · have : ¬ j = i := fun hh => hij hh.symm
    simp [hij, this]

theorem cacheAt_setCache (i j : Nat) (v : RegVal) (h : i < s.cache.length) :
    cacheAt (setCache i v s) j = if j = i then v else cacheAt s j := getD_set _ _ _ _ _ h

theorem dirtyAt_setDirty (i j : Nat) (b : Bool) (h : i < s.dirty.length) :
    dirtyAt (setDirty i b s) j = if j = i then b else dirtyAt s j := getD_set _ _ _ _ _ h

/-- Clearing a flag clears it wherever the index lies: past the end every flag reads clear. -/
theorem dirtyAt_clear (i j : Nat) : dirtyAt (setDirty i false s) j = if j = i then false else dirtyAt s j := by
  by_cases h : i < s.dirty.length
  · exact dirtyAt_setDirty s i j false h
  · have e : s.dirty.set i false = s.dirty := List.set_eq_of_length_le (by omega)
    simp only [dirtyAt, setDirty_dirty, e]
    split
    · subst_vars; simp [List.getD_eq_getElem?_getD]; rw [List.getElem?_eq_none (by omega)]; rfl
    · rfl

theorem chipregAt_busWrite (i j : Nat) (v : RegVal) (h : i < s.chipreg.length) :
    chipregAt (busWrite i v s) j =
      if j = i ∧ s.cfg.chipResponse = .echo then some (maskValue s.cfg v) else chipregAt s j := by
  unfold chipregAt
  rw [busWrite_eq]
  by_cases he : s.cfg.chipResponse = .echo
  · simp only [he, if_true, and_true]; exact getD_set _ _ _ _ _ h
  · simp [he]

/-! ### One turn of the flush -/

/-- A flush's turn touches the flags, the chip's registers and the history only. -/
theorem flushOne_frame (i : Nat) :
    flushOne s i =
      { s with dirty := (flushOne s i).dirty, chipreg := (flushOne s i).chipreg, events := (flushOne s i).events } := by
  unfold flushOne
  split
  · rw [busWrite_eq]; rfl
  · rfl

theorem flushOne_events (i : Nat) :
    (flushOne s i).events =
      s.events ++ if dirtyAt s i then [.busFrame (wframe s.cfg i (cacheAt s i)) 0] else [] := by
  unfold flushOne
  split <;> simp

@[simp] theorem flushOne_cfg (i : Nat) : (flushOne s i).cfg = s.cfg := by rw [flushOne_frame]

@[simp] theorem flushOne_cache (i : Nat) : (flushOne s i).cache = s.cache := by rw [flushOne_frame]

@[simp] theorem flushOne_dirty_length (i : Nat) : (flushOne s i).dirty.length = s.dirty.length := by
  unfold flushOne
  split <;> simp

@[simp] theorem flushOne_chipreg_length (i : Nat) : (flushOne s i).chipreg.length = s.chipreg.length := by
  unfold flushOne
  split
  · rw [busWrite_eq]; simp only [setDirty_chipreg]; split <;> simp
  · rfl

@[simp] theorem cacheAt_flushOne (i j : Nat) : cacheAt (flushOne s i) j = cacheAt s j := by simp [cacheAt]

theorem dirtyAt_flushOne (i j : Nat) : dirtyAt (flushOne s i) j = if j = i then false else dirtyAt s j := by
  unfold flushOne
  split
  · rw [dirtyAt_clear]; simp [dirtyAt]
  · split
    · subst_vars; simp_all
    · rfl

theorem chipregAt_flushOne (i j : Nat) (h : j < s.chipreg.length) :
    chipregAt (flushOne s i) j =
      if j = i ∧ dirtyAt s i = true ∧ s.cfg.chipResponse = .echo then some (maskValue s.cfg (cacheAt s i))
      else chipregAt s j := by
  unfold flushOne
  split
  · rename_i hd
    have e : chipregAt (setDirty i false (busWrite i (cacheAt s i) s)) j = chipregAt (busWrite i (cacheAt s i) s) j := by
      simp [chipregAt]
    rw [e]
    by_cases hij : j = i
    · subst hij; rw [chipregAt_busWrite _ _ _ _ h]; simp [hd]
    · simp only [hij, false_and, if_false]
      unfold chipregAt
      rw [busWrite_eq]
      simp only
      split
      · simp [List.getD_eq_getElem?_getD, List.getElem?_set_ne (fun hh => hij hh.symm : i ≠ j)]
      · rfl
  · rename_i hd; simp [hd]

end Sys2Proof.Machine
end

