-- ==== Sys2Proof/Laws/PerInstr.lean ====
section
/-! SUPPORT. Statements about every command as syntax, one lemma per constructor: the response hold's opcode test (spec/42_stream.md
R261) picks exactly the commands that push a response (spec/30_encoding.md R142). -/

namespace Sys2Proof.Laws.ResponseOpcode

/-- The commands that push a response word (30 R142). -/
def producesResponse (i : Instr) : Bool :=
  match i with
  | .getMode => true
  | .getPower => true
  | .regRead _ => true
  | .queryStart => true
  | .getStatus => true
  | .init => false
  | .setMode _ => false
  | .setPower _ => false
  | .regWrite _ _ => false
  | .regSet _ _ => false
  | .regFlush => false
  | .schedStep => false

/-- The opcode-field test on a command's word answers whether the command pushes a response. -/
def Statement (i : Instr) : Prop := responseProducing (encode i) = producesResponse i

theorem init : Statement .init := by unfold Statement; decide
theorem setMode (code : BitVec 4) : Statement (.setMode code) := by simp [Statement, responseProducing, encode, producesResponse]
theorem getMode : Statement .getMode := by unfold Statement; decide
theorem setPower (code : BitVec 4) : Statement (.setPower code) := by simp [Statement, responseProducing, encode, producesResponse]
theorem getPower : Statement .getPower := by unfold Statement; decide
theorem regWrite (idx : BitVec 8) (val : BitVec 16) : Statement (.regWrite idx val) := by
  simp [Statement, responseProducing, encode, producesResponse]
theorem regRead (idx : BitVec 8) : Statement (.regRead idx) := by simp [Statement, responseProducing, encode, producesResponse]
theorem regSet (idx : BitVec 8) (val : BitVec 16) : Statement (.regSet idx val) := by
  simp [Statement, responseProducing, encode, producesResponse]
theorem regFlush : Statement .regFlush := by unfold Statement; decide
theorem schedStep : Statement .schedStep := by unfold Statement; decide
theorem queryStart : Statement .queryStart := by unfold Statement; decide
theorem getStatus : Statement .getStatus := by unfold Statement; decide

end Sys2Proof.Laws.ResponseOpcode
end

