-- ==== Sys2Proof/Laws/Steps.lean ====
section
/-! SUPPORT. Everything a step can do, said once: the inversion of the step, of the Sequencer's step, of each command
that has more than one outcome (SET_MODE, SCHED_STEP), and of the agents' steps. Invariants are proved from these. -/

namespace Sys2Proof.Machine

/-! ### Well-formed configurations (00 R14) -/

theorem wf_stream {c : Config} (h : c.wellFormed = true) :
    c.cap % 2 = 0 ∧ c.cap ≤ 2 ^ 19 ∧ 0 < c.tickBytes ∧ c.half % c.tickBytes = 0 ∧ c.rxMargin % c.tickBytes = 0 ∧
      0 < c.rxMargin ∧ c.rxMargin ≤ c.half ∧ c.half = c.cap / 2 ∧ 2 ≤ c.portWords ∧ 2 ≤ c.usbqDepth ∧ 1 ≤ c.rspDepth := by
  simp [Config.wellFormed, Config.capOk, Config.tickOk, Config.marginOk, Config.portOk, Config.depthsOk] at h
  refine ⟨?_, ?_, ?_, ?_, ?_, ?_, ?_, rfl, ?_, ?_, ?_⟩ <;> tauto

theorem wf_defaults {c : Config} (h : c.wellFormed = true) :
    c.regDefaults.length = c.nRegs ∧ ∀ v ∈ c.regDefaults, v.toNat < 2 ^ c.dataBits := by
  simp [Config.wellFormed, Config.defaultsOk] at h
  tauto

theorem maskValue_toNat (c : Config) (v : BitVec 16) : (maskValue c v).toNat = v.toNat % 2 ^ c.dataBits := by
  rw [maskValue, mask, BitVec.toNat_ofNat, Nat.and_two_pow_sub_one_eq_mod]
  exact Nat.mod_eq_of_lt (lt_of_le_of_lt (Nat.mod_le _ _) v.isLt)

theorem maskValue_lt (c : Config) (v : BitVec 16) : (maskValue c v).toNat < 2 ^ c.dataBits := by
  rw [maskValue_toNat]
  exact Nat.mod_lt _ (by positivity)

theorem maskValue_mask (c : Config) (v : BitVec 16) : maskValue c (maskValue c v) = maskValue c v := by
  apply BitVec.eq_of_toNat_eq
  simp [maskValue_toNat]

/-! ### SET_MODE (41 R230 to R237) -/

theorem changeMode_off (s : State) :
    changeMode .off s =
      { s with
        clkEn := false, fillPending := false, epoch := s.epoch + 1, offset := 0, phase := 0, lines := 0b000, mode := .off
        events := s.events ++
          [.clockEnable false, .lineWrite .rxen false, .lineWrite .txen false, .lineWrite .en false] } := by
  simp [changeMode, enterMode, driveLines_eq, exitStream_eq, powerOf, finalLines, lineEvents]

theorem changeMode_rx (s : State) :
    changeMode .rx s =
      { s with
        clkEn := true, fillPending := false, epoch := s.epoch + 1
        offset := BitVec.ofNat 20 (s.cfg.cap - s.cfg.rxMargin), phase := 1, lines := 0b101, mode := .rx
        port := List.replicate s.cfg.portWords (some 0)
        events := s.events ++
          [.clockEnable false, .lineWrite .txen false, .lineWrite .en true, .lineWrite .rxen true, .portClear,
            .clockEnable true] } := by
  simp [changeMode, enterMode, driveLines_eq, exitStream_eq, powerOf, finalLines, lineEvents, rxEntry_eq]

/-- The descriptor of TRANSMIT entry in epoch e. -/
abbrev entryFill (e : Nat) : Descriptor := { dir := .out, half := 0, kind := .fill, epoch := e, tainted := false }

theorem changeMode_tx (s : State) :
    changeMode .tx s =
      { s with
        clkEn := false, fillPending := true, epoch := s.epoch + 1, offset := BitVec.ofNat 20 s.cfg.cap, phase := 0
        lines := 0b011, mode := .tx, outq := s.outq ++ [entryFill (s.epoch + 1)]
        events := s.events ++
          [.clockEnable false, .lineWrite .rxen false, .lineWrite .en true, .lineWrite .txen true,
            .schedule (entryFill (s.epoch + 1))] } := by
  simp [changeMode, enterMode, driveLines_eq, exitStream_eq, powerOf, finalLines, lineEvents, txEntry_eq]

/-- The four outcomes of a SET_MODE whose code names a mode. -/
theorem setModeTo_cases (m : Mode) (w : Word) (s : State) :
    (m ≠ .off ∧ s.bufReady = false ∧ setModeTo m w s = raiseFault .notInitialized w s) ∨
    ((m ≠ .off → s.bufReady = true) ∧ m = .tx ∧ s.mode ≠ .tx ∧ s.cfg.usbqDepth ≤ s.outq.length ∧
      setModeTo m w s = raiseFault .queueOverflow w s) ∨
    ((m ≠ .off → s.bufReady = true) ∧ m = s.mode ∧
      setModeTo m w s = { s with lines := finalLines (powerOf m), events := s.events ++ lineEvents (powerOf m) }) ∨
    ((m ≠ .off → s.bufReady = true) ∧ m ≠ s.mode ∧ (m = .tx → s.outq.length < s.cfg.usbqDepth) ∧
      setModeTo m w s = changeMode m s) := by
  unfold setModeTo
  split
  · exact .inl (by simp_all)
  · rename_i h1
    have h1' : m ≠ .off → s.bufReady = true := by simpa using h1
    split
    · rename_i h2
      obtain ⟨a, b, c⟩ := h2
      exact .inr (.inl ⟨h1', a, fun e => b (a.trans e.symm), by simpa [queueFull] using c, rfl⟩)
    · rename_i h2
      split
      · rename_i h3
        exact .inr (.inr (.inl ⟨h1', h3, by rw [driveLines_eq]⟩))
      · rename_i h3
        refine .inr (.inr (.inr ⟨h1', h3, fun ht => ?_, rfl⟩))
        by_contra hc
        exact h2 ⟨ht, h3, by simp [queueFull]; omega⟩

/-- A reserved mode code names no mode, and a reserved power code no power state (30 R134). -/
theorem modeOfCode_none (c : BitVec 4) (h : 3 ≤ c.toNat) : modeOfCode c = none := by revert h; revert c; decide

theorem powerOfCode_none (c : BitVec 4) (h : 4 ≤ c.toNat) : powerOfCode c = none := by revert h; revert c; decide

/-! ### SCHED_STEP (42 R280 to R282) -/

/-- The descriptor a scheduling action pushes. -/
abbrev streamOf (d : Dir) (h : Half) (s : State) : Descriptor :=
  { dir := d, half := h, kind := .stream, epoch := s.epoch, tainted := false }

/-- One scheduling action, in RX and outside it. -/
theorem scheduleHalf_rx (h : Half) (s : State) (hm : s.mode = .rx) :
    scheduleHalf h s =
      { s with inq := s.inq ++ [streamOf .inn h s], phase := h, events := s.events ++ [.schedule (streamOf .inn h s)] } := by
  simp [scheduleHalf, pushDescriptor_eq, hm, dirOf]

theorem scheduleHalf_tx (h : Half) (s : State) (hm : s.mode ≠ .rx) :
    scheduleHalf h s =
      { s with
        outq := s.outq ++ [streamOf .out h s], phase := h
        events := s.events ++ [.schedule (streamOf .out h s)] } := by
  cases hmode : s.mode with
  | rx => exact absurd hmode hm
  | tx => simp [scheduleHalf, pushDescriptor_eq, hmode, dirOf]
  | off => simp [scheduleHalf, pushDescriptor_eq, hmode, dirOf]

/-- What a scheduling action on half `h` does where its queue has room: a push and the phase. -/
inductive Scheduled (h : Half) (s t : State) : Prop where
  | rx (hm : s.mode = .rx) (room : s.inq.length < s.cfg.usbqDepth)
      (eq : t = { s with
                  inq := s.inq ++ [streamOf .inn h s], phase := h
                  events := s.events ++ [.schedule (streamOf .inn h s)] })
  | tx (hm : s.mode ≠ .rx) (room : s.outq.length < s.cfg.usbqDepth)
      (eq : t = { s with
                  outq := s.outq ++ [streamOf .out h s], phase := h
                  events := s.events ++ [.schedule (streamOf .out h s)] })

theorem scheduled_of_room {h : Half} {s : State} (hq : ¬ queueFull s.cfg (queueOf s (dirOf s.mode)) = true) :
    Scheduled h s (scheduleHalf h s) := by
  cases hm : s.mode with
  | off => exact .tx (by simp [hm]) (by simpa [queueFull, queueOf, dirOf, hm] using hq) (scheduleHalf_tx h s (by simp [hm]))
  | rx => exact .rx hm (by simpa [queueFull, queueOf, dirOf, hm] using hq) (scheduleHalf_rx h s hm)
  | tx => exact .tx (by simp [hm]) (by simpa [queueFull, queueOf, dirOf, hm] using hq) (scheduleHalf_tx h s (by simp [hm]))

/-- The outcomes of step 1. -/
theorem execSchedStep_cases (s : State) :
    (∃ f, execSchedStep s = .next (raiseFault f (encode .schedStep) s)) ∨
    (s.bufReady = true ∧ s.mode ≠ .off ∧ s.fillPending = false ∧ owedHalf0 s = true ∧
      ∃ t, Scheduled 0 s t ∧ execSchedStep s = .next { t with seq := .step2 }) ∨
    (s.bufReady = true ∧ s.mode ≠ .off ∧ s.fillPending = false ∧ owedHalf0 s = false ∧
      execSchedStep s = .next { s with seq := .step2 }) := by
  unfold execSchedStep
  split
  · exact .inl ⟨_, rfl⟩
  · split
    · exact .inl ⟨_, rfl⟩
    · split
      · exact .inl ⟨_, rfl⟩
      · have hb : s.bufReady = true := by simp_all
        have hf : s.fillPending = false := by simp_all
        split
        · split
          · exact .inl ⟨_, rfl⟩
          · exact .inr (.inl ⟨hb, ‹_›, hf, ‹_›, _, scheduled_of_room ‹_›, rfl⟩)
        · exact .inr (.inr ⟨hb, ‹_›, hf, by simp_all, rfl⟩)

/-- The outcomes of step 2. -/
theorem schedStepSecond_cases (s : State) :
    (schedStepSecond s = raiseFault .queueOverflow (encode .schedStep) { s with seq := .idle }) ∨
    (owedHalf1 s = true ∧ Scheduled 1 { s with seq := .idle } (schedStepSecond s)) ∨
    (owedHalf1 s = false ∧ schedStepSecond s = { s with seq := .idle }) := by
  unfold schedStepSecond
  split
  · rename_i ho
    split
    · exact .inl rfl
    · rename_i hq
      exact .inr (.inl ⟨ho, scheduled_of_room hq⟩)
  · exact .inr (.inr ⟨by simp_all, rfl⟩)

/-! ### The agents (42 R300 to R312) -/

/-- A tick in RX. -/
theorem tickRx_eq (samples : List Byte) (o : Nat) (h : Half) (s : State) :
    tickRx samples o h s =
      { s with
        buf := memWrite s.buf o (suppliedBytes s.draws s.cfg.tickBytes samples)
        draws := s.draws + s.cfg.tickBytes
        xrunCount := if halfInFlight s.inq h then bumpXrun s.xrunCount else s.xrunCount
        inq := if halfInFlight s.inq h then taintHalf s.inq h else s.inq
        events := s.events ++ [.portIn o (suppliedBytes s.draws s.cfg.tickBytes samples)] ++
          if halfInFlight s.inq h then [.xrun o h] else [] } := by
  unfold tickRx
  by_cases hf : halfInFlight s.inq h = true <;> simp [hf, countXrun, emit]

/-- A tick in TX. -/
theorem tickTx_eq (o : Nat) (h : Half) (s : State) :
    tickTx o h s =
      { s with
        draws := s.draws + s.cfg.tickBytes
        xrunCount := if halfInFlight s.outq h then bumpXrun s.xrunCount else s.xrunCount
        events := s.events ++
          if halfInFlight s.outq h then [.xrun o h, .portOut o (drawBytes s.draws s.cfg.tickBytes)]
          else [.portOut o (memRead s.buf s.draws o s.cfg.tickBytes)] } := by
  unfold tickTx
  by_cases hf : halfInFlight s.outq h = true <;> simp [hf, countXrun, emit, countDraws]

/-- The outcomes of a tick. -/
theorem tickStep_cases {samples : List Byte} {s t : State} (h : tickStep samples s = .next t) :
    t = s ∨ (s.clkEn = true ∧ s.offset.toNat < s.cfg.cap ∧
      t = { tickData samples s.offset.toNat (halfOf s.cfg s.offset.toNat) s with
            offset := nextOffset s.cfg s.offset.toNat }) := by
  unfold tickStep at h
  split at h
  · exact .inl (by simpa using h.symm)
  · split at h
    · cases h
    · exact .inr ⟨by simp_all, by omega, by simpa using h.symm⟩

/-- A completion that acts. -/
theorem completeDescriptor_acts {d : Descriptor} {s : State} (h : completionActs d s = true) :
    completeDescriptor d s =
      { s with
        offset := 0, draws := s.draws + 8, clkEn := true, fillPending := false
        port := (s.port.set s.cfg.primeSlot0 (some (primeWord s.buf s.draws 0))).set s.cfg.primeSlot1
          (some (primeWord s.buf s.draws 1))
        events := s.events ++
          [.portWrite s.cfg.primeSlot0 (primeWord s.buf s.draws 0),
            .portWrite s.cfg.primeSlot1 (primeWord s.buf s.draws 1), .clockEnable true, .complete d true] } := by
  simp [completeDescriptor, h, primeAndStart_eq, emit]

/-- A completion with no effect on scheduler state. -/
theorem completeDescriptor_idle {d : Descriptor} {s : State} (h : completionActs d s = false) :
    completeDescriptor d s = { s with events := s.events ++ [.complete d false] } := by
  simp [completeDescriptor, h, emit]

/-- A completion acts iff the descriptor is current, a FILL, and the fill is pending. -/
theorem completionActs_iff (d : Descriptor) (s : State) :
    completionActs d s = true ↔ d.epoch = s.epoch ∧ d.kind = .fill ∧ s.fillPending = true := by
  simp [completionActs, and_assoc]

/-- The state of a UsbIn step before the completion's effect. -/
abbrev inDelivered (d : Descriptor) (rest : List Descriptor) (s : State) : State :=
  { s with inq := rest, draws := s.draws + s.cfg.half, events := s.events ++ [.hostRx d (inBytes d s)] }

theorem usbInStep_cases (s : State) :
    (s.inq = [] ∧ usbInStep s = s) ∨
      ∃ d rest, s.inq = d :: rest ∧ usbInStep s = completeDescriptor d (inDelivered d rest s) := by
  unfold usbInStep
  split
  · exact .inl ⟨‹_›, rfl⟩
  · exact .inr ⟨_, _, ‹_›, rfl⟩

/-- The state of a UsbOut step before the completion's effect. -/
abbrev outDelivered (given : List Byte) (d : Descriptor) (rest : List Descriptor) (s : State) : State :=
  { s with
    outq := rest, draws := s.draws + s.cfg.half
    buf := memWrite s.buf (halfBase s.cfg d.half) (suppliedBytes s.draws s.cfg.half given)
    events := s.events ++ [.hostTx d (suppliedBytes s.draws s.cfg.half given)] }

theorem usbOutStep_cases (given : List Byte) (s : State) :
    (s.outq = [] ∧ usbOutStep given s = s) ∨
      ∃ d rest, s.outq = d :: rest ∧ usbOutStep given s = completeDescriptor d (outDelivered given d rest s) := by
  unfold usbOutStep
  split
  · exact .inl ⟨‹_›, rfl⟩
  · exact .inr ⟨_, _, ‹_›, rfl⟩

theorem hostPushStep_cases (w : Word) (s : State) :
    hostPushStep w s = s ∨ (s.cmdq.length < s.cfg.cmdDepth ∧ hostPushStep w s = { s with cmdq := s.cmdq ++ [w] }) := by
  unfold hostPushStep
  split
  · exact .inl rfl
  · exact .inr ⟨by simp_all [cmdFull], rfl⟩

/-! ### REG_FLUSH (40 R205) -/

/-- A flush touches the flags, the chip's registers and the history only, and it adds frame events only. -/
theorem flush_frame (l : List Nat) (s : State) :
    ∃ dirty chipreg new, l.foldl flushOne s =
      { s with dirty := dirty, chipreg := chipreg, events := s.events ++ new } ∧
      ∀ e ∈ new, ∃ tx, e = .busFrame tx 0 := by
  induction l generalizing s with
  | nil => exact ⟨s.dirty, s.chipreg, [], by simp, by simp⟩
  | cons i l ih =>
    obtain ⟨d, c, new, e, h⟩ := ih (flushOne s i)
    rw [List.foldl_cons, e, flushOne_events]
    refine ⟨d, c, _ ++ new, by rw [← List.append_assoc, flushOne_frame], ?_⟩
    intro e he
    rcases List.mem_append.mp he with he | he
    · split at he
      · simp only [List.mem_singleton] at he
        exact ⟨_, he⟩
      · simp at he
    · exact h e he

/-! ### Commands -/

/-- What a command other than a fault changes, by the kind of command. -/
inductive Effect (i : Instr) (s t : State) : Prop where
  | fault (f : FaultCode) (eq : t = raiseFault f (encode i) s)
  | ready (hi : i = .init) (eq : t = { s with bufReady := true })
  | lines (p : Power) (hi : (∃ c, i = .setMode c ∧ p = powerOf s.mode) ∨ ∃ c, i = .setPower c)
      (eq : t = { s with lines := finalLines p, events := s.events ++ lineEvents p })
  | change (c : BitVec 4) (m : Mode) (hi : i = .setMode c) (ready : m ≠ .off → s.bufReady = true) (ne : m ≠ s.mode)
      (room : m = .tx → s.outq.length < s.cfg.usbqDepth) (eq : t = changeMode m s)
  | respond (w : Word) (hi : i = .getMode ∨ i = .getPower ∨ i = .queryStart ∨ i = .getStatus) (eq : t = respond w s)
  | regWrite (idx : BitVec 8) (val : BitVec 16) (hi : i = .regWrite idx val) (lt : idx.toNat < s.cfg.nRegs)
      (eq : t = setDirty idx.toNat false
        (setCache idx.toNat (maskValue s.cfg val) (busWrite idx.toNat (maskValue s.cfg val) s)))
  | regRead (idx : BitVec 8) (w : Word) (hi : i = .regRead idx) (lt : idx.toNat < s.cfg.nRegs)
      (eq : t = Machine.respond w (busRead idx.toNat s))
  | regKeep (idx : BitVec 8) (val : BitVec 16) (hi : i = .regSet idx val) (eq : t = s)
  | regSet (idx : BitVec 8) (val : BitVec 16) (hi : i = .regSet idx val) (lt : idx.toNat < s.cfg.nRegs)
      (eq : t = setDirty idx.toNat true (setCache idx.toNat (maskValue s.cfg val) s))
  | flush (hi : i = .regFlush) (eq : t = (List.range s.cfg.nRegs).foldl flushOne s)
  | schedule (hi : i = .schedStep) (ready : s.bufReady = true) (on : s.mode ≠ .off) (nofill : s.fillPending = false)
      (owed : owedHalf0 s = true) (u : State) (sched : Scheduled 0 s u) (eq : t = { u with seq := .step2 })
  | pass (hi : i = .schedStep) (ready : s.bufReady = true) (on : s.mode ≠ .off) (nofill : s.fillPending = false)
      (eq : t = { s with seq := .step2 })

/-- Every command answers a next state, and it is one of these effects. -/
theorem exec_effect (i : Instr) (s : State) : ∃ t, exec i s = .next t ∧ Effect i s t := by
  cases i with
  | init =>
    simp only [exec, execInit]
    split
    · exact ⟨_, rfl, .fault _ rfl⟩
    · exact ⟨_, rfl, .ready rfl rfl⟩
  | setMode code =>
    simp only [exec, execSetMode]
    cases modeOfCode code with
    | none => exact ⟨_, rfl, .fault _ rfl⟩
    | some m =>
      refine ⟨_, rfl, ?_⟩
      rcases setModeTo_cases m (encode (.setMode code)) s with ⟨_, _, e⟩ | ⟨_, _, _, _, e⟩ | ⟨_, h, e⟩ | ⟨a, b, c, e⟩
      · exact .fault _ e
      · exact .fault _ e
      · exact .lines _ (.inl ⟨code, rfl, by rw [h]⟩) e
      · exact .change code m rfl a b c e
  | getMode => exact ⟨_, rfl, .respond _ (by simp) rfl⟩
  | setPower code =>
    simp only [exec, execSetPower]
    cases powerOfCode code with
    | none => exact ⟨_, rfl, .fault _ rfl⟩
    | some p => exact ⟨_, rfl, .lines p (.inr ⟨code, rfl⟩) (driveLines_eq s p)⟩
  | getPower => exact ⟨_, rfl, .respond _ (by simp) rfl⟩
  | regWrite idx val =>
    simp only [exec, execRegWrite]
    split
    · exact ⟨_, rfl, .regWrite idx val rfl (of_decide_eq_true ‹indexOk s.cfg idx = true›) rfl⟩
    · exact ⟨_, rfl, .fault _ rfl⟩
  | regRead idx =>
    simp only [exec, execRegRead]
    split
    · exact ⟨_, rfl, .regRead idx _ rfl (of_decide_eq_true ‹indexOk s.cfg idx = true›) rfl⟩
    · exact ⟨_, rfl, .fault _ rfl⟩
  | regSet idx val =>
    simp only [exec, execRegSet]
    split
    · split
      · exact ⟨_, rfl, .regKeep idx val rfl rfl⟩
      · exact ⟨_, rfl, .regSet idx val rfl (of_decide_eq_true ‹indexOk s.cfg idx = true›) rfl⟩
    · exact ⟨_, rfl, .fault _ rfl⟩
  | regFlush => exact ⟨_, rfl, .flush rfl rfl⟩
  | schedStep =>
    rcases execSchedStep_cases s with ⟨f, h⟩ | ⟨a, b, c, o, u, hu, h⟩ | ⟨a, b, c, o, h⟩
    · exact ⟨_, h, .fault f rfl⟩
    · exact ⟨_, h, .schedule rfl a b c o u hu rfl⟩
    · exact ⟨_, h, .pass rfl a b c rfl⟩
  | queryStart => exact ⟨_, rfl, .respond _ (by simp) rfl⟩
  | getStatus => exact ⟨_, rfl, .respond _ (by simp) rfl⟩

theorem exec_next_effect {i : Instr} {s t : State} (h : exec i s = .next t) : Effect i s t := by
  obtain ⟨u, hu, e⟩ := exec_effect i s
  rw [hu] at h
  cases h
  exact e

/-! ### The step -/

theorem step_eq_of_wf {s : State} (h : s.cfg.wellFormed = true) : step s = takeTurn (nextTurn s) (dropTurn s) := by
  simp [step, h]

/-- A step that answers a next state is one turn, from a well-formed configuration. -/
theorem step_next {s t : State} (h : step s = .next t) :
    s.cfg.wellFormed = true ∧ takeTurn (nextTurn s) (dropTurn s) = .next t := by
  unfold step at h
  split at h
  · exact ⟨‹_›, h⟩
  · cases h

/-- The state in which a command taken off CMDQ executes. -/
abbrev taken (w : Word) (rest : List Word) (s : State) : State :=
  { s with cmdq := rest, events := s.events ++ [.cmd w] }

/-- The outcomes of the Sequencer's step. -/
theorem sequencerStep_cases {s t : State} (h : sequencerStep s = .next t) :
    (s.seq ≠ .step2 ∧ t = s) ∨
    (s.seq = .idle ∧ ∃ w rest, s.cmdq = w :: rest ∧ heldBack w s = false ∧
      ((∃ f, t = raiseFault f w (taken w rest s)) ∨ ∃ i, decode w = .instr i ∧ Effect i (taken w rest s) t)) ∨
    (s.seq = .step2 ∧ t = schedStepSecond s) := by
  unfold sequencerStep at h
  split at h
  · rename_i hs
    unfold idleStep at h
    split at h
    · exact .inl ⟨by simp [hs], by simpa using h.symm⟩
    · rename_i w rest hc
      split at h
      · exact .inl ⟨by simp [hs], by simpa using h.symm⟩
      · rename_i hh
        refine .inr (.inl ⟨hs, w, rest, hc, by simpa using hh, ?_⟩)
        unfold runWord at h
        split at h
        · exact .inr ⟨_, ‹_›, exec_next_effect h⟩
        · exact .inl ⟨_, by simpa [emit] using h.symm⟩
  · rename_i hs
    exact .inr (.inr ⟨hs, by simpa using h.symm⟩)
  · rename_i hs
    exact .inl ⟨by simp [hs], by simpa using h.symm⟩

end Sys2Proof.Machine
end

