-- ==== Sys2Proof/Machine/Assembler.lean ====
section
/-! DEFINITION. The assembler syntax of command-stream source (spec/30_encoding.md R160 to R162), as a function from
characters to command words. No step of the machine uses it. -/

namespace Sys2Proof.Machine

/-- A blank: what separates a mnemonic from its operands (30 R160; log 17). -/
def isBlank (c : Char) : Bool := c == ' ' || c == '\t' || c == '\r'

/-- A line without its comment (30 R160). -/
def dropComment (line : List Char) : List Char := line.takeWhile (· != ';')

/-- A text without its leading and trailing blanks. -/
def trimBlanks (cs : List Char) : List Char := ((cs.dropWhile isBlank).reverse.dropWhile isBlank).reverse

/-- A text cut at each `sep`. -/
def splitAtChar (sep : Char) (cs : List Char) : List (List Char) :=
  match cs with
  | [] => [[]]
  | c :: rest =>
    if c == sep then [] :: splitAtChar sep rest
    else
      match splitAtChar sep rest with
      | [] => [[c]]
      | first :: others => (c :: first) :: others

/-- An ASCII letter in upper case: mnemonics are case-insensitive (30 R160). -/
def upperChar (c : Char) : Char := if 97 ≤ c.toNat ∧ c.toNat ≤ 122 then Char.ofNat (c.toNat - 32) else c

/-- The value of a digit in a base of at most 16 (30 R160; log 17). -/
def digitValue (base : Nat) (c : Char) : Option Nat :=
  let n := c.toNat
  let v := if 48 ≤ n ∧ n ≤ 57 then n - 48 else if 97 ≤ n ∧ n ≤ 102 then n - 87 else if 65 ≤ n ∧ n ≤ 70 then n - 55 else 16
  if v < base then some v else none

/-- The number a digit text spells after the number `acc`. -/
def digitsValue (base acc : Nat) (cs : List Char) : Option Nat :=
  match cs with
  | [] => some acc
  | c :: rest =>
    match digitValue base c with
    | some v => digitsValue base (acc * base + v) rest
    | none => none

/-- A numeric literal: decimal, or hexadecimal with a 0x prefix (30 R160). -/
def numberOf (cs : List Char) : Option Nat :=
  match cs with
  | '0' :: 'x' :: d :: rest => digitsValue 16 0 (d :: rest)
  | d :: rest => digitsValue 10 0 (d :: rest)
  | [] => none

/-- A number that fits a field of `bits` bits; one that does not is an assembly error (30 R161). -/
def fieldOf (bits : Nat) (cs : List Char) : Option (BitVec bits) :=
  match numberOf cs with
  | some n => if n < 2 ^ bits then some (BitVec.ofNat bits n) else none
  | none => none

/-- The operand of SET_MODE: a mode name or a numeric code 0..15 (30 R161). -/
def modeOperand (cs : List Char) : Option (BitVec 4) :=
  if cs = ['O', 'F', 'F'] then some 0
  else if cs = ['R', 'X'] then some 1
  else if cs = ['T', 'X'] then some 2
  else fieldOf 4 cs

/-- The operand of SET_POWER: a power name or a numeric code 0..15 (30 R161). -/
def powerOperand (cs : List Char) : Option (BitVec 4) :=
  if cs = ['S', 'H', 'U', 'T', 'D', 'O', 'W', 'N'] then some 0
  else if cs = ['S', 'T', 'A', 'N', 'D', 'B', 'Y'] then some 1
  else if cs = ['T', 'R', 'A', 'N', 'S', 'M', 'I', 'T'] then some 2
  else if cs = ['R', 'E', 'C', 'E', 'I', 'V', 'E'] then some 3
  else fieldOf 4 cs

/-- The commands without operand, and the pseudo-instructions without operand (30 R161, R162). -/
def bareCommand (m : List Char) : Option (List Word) :=
  if m = ['I', 'N', 'I', 'T'] then some [encode .init]
  else if m = ['G', 'E', 'T', '_', 'M', 'O', 'D', 'E'] then some [encode .getMode]
  else if m = ['G', 'E', 'T', '_', 'P', 'O', 'W', 'E', 'R'] then some [encode .getPower]
  else if m = ['R', 'E', 'G', '_', 'F', 'L', 'U', 'S', 'H'] then some [encode .regFlush]
  else if m = ['S', 'C', 'H', 'E', 'D', '_', 'S', 'T', 'E', 'P'] then some [encode .schedStep]
  else if m = ['Q', 'U', 'E', 'R', 'Y', '_', 'S', 'T', 'A', 'R', 'T'] then some [encode .queryStart]
  else if m = ['G', 'E', 'T', '_', 'S', 'T', 'A', 'T', 'U', 'S'] then some [encode .getStatus]
  else if m = ['R', 'X', '_', 'S', 'T', 'A', 'R', 'T'] then some [encode (.setMode 1)]
  else if m = ['T', 'X', '_', 'S', 'T', 'A', 'R', 'T'] then some [encode (.setMode 2)]
  else if m = ['S', 'T', 'O', 'P'] then some [encode (.setMode 0)]
  else if m = ['S', 'T', 'A', 'N', 'D', 'B', 'Y'] then some [encode (.setPower 1)]
  else none

/-- The commands with one operand, and `.word` (30 R161, R162). -/
def oneOperandCommand (m a : List Char) : Option (List Word) :=
  if m = ['S', 'E', 'T', '_', 'M', 'O', 'D', 'E'] then (modeOperand a).map fun c => [encode (.setMode c)]
  else if m = ['S', 'E', 'T', '_', 'P', 'O', 'W', 'E', 'R'] then (powerOperand a).map fun c => [encode (.setPower c)]
  else if m = ['R', 'E', 'G', '_', 'R', 'E', 'A', 'D'] then (fieldOf 8 a).map fun i => [encode (.regRead i)]
  else if m = ['.', 'W', 'O', 'R', 'D'] then (fieldOf 32 a).map fun w => [w]
  else none

/-- The words of a command with an index and a value, both of which must fit (30 R161). -/
def indexValueWords (a b : List Char) (words : BitVec 8 → BitVec 16 → List Word) : Option (List Word) :=
  match fieldOf 8 a, fieldOf 16 b with
  | some i, some v => some (words i v)
  | _, _ => none

/-- The commands with two operands, and REG_SETF (30 R161, R162). -/
def twoOperandCommand (m a b : List Char) : Option (List Word) :=
  if m = ['R', 'E', 'G', '_', 'W', 'R', 'I', 'T', 'E'] then indexValueWords a b fun i v => [encode (.regWrite i v)]
  else if m = ['R', 'E', 'G', '_', 'S', 'E', 'T'] then indexValueWords a b fun i v => [encode (.regSet i v)]
  else if m = ['R', 'E', 'G', '_', 'S', 'E', 'T', 'F'] then
    indexValueWords a b fun i v => [encode (.regSet i v), encode .regFlush]
  else none

/-- The operand texts that stand after a mnemonic, cut at commas (30 R160). -/
def operandTexts (cs : List Char) : List (List Char) :=
  match trimBlanks cs with
  | [] => []
  | c :: rest => (splitAtChar ',' (c :: rest)).map trimBlanks

/-- One source line: its words, none of them for an empty line, or an assembly error (30 R160 to R162). -/
def assembleLine (line : List Char) : Option (List Word) :=
  match trimBlanks (dropComment line) with
  | [] => some []
  | c :: rest =>
    let mnemonic := ((c :: rest).takeWhile fun x => !isBlank x).map upperChar
    match operandTexts ((c :: rest).dropWhile fun x => !isBlank x) with
    | [] => bareCommand mnemonic
    | [a] => oneOperandCommand mnemonic a
    | [a, b] => twoOperandCommand mnemonic a b
    | _ => none

/-- The words of a list of lines, in order; an error in any line is an error. -/
def assembleLines (lines : List (List Char)) : Option (List Word) :=
  match lines with
  | [] => some []
  | line :: rest =>
    match assembleLine line, assembleLines rest with
    | some here, some there => some (here ++ there)
    | _, _ => none

/-- A command-stream source file: one command per line (30 R160). -/
def assemble (text : List Char) : Option (List Word) := assembleLines (splitAtChar '\n' text)

end Sys2Proof.Machine
end

