-- ==== Sys2Proof/Tests/Slice0.lean ====
section
/-! SUPPORT. Our own tests: the well-formedness checks, decoding from the words of spec/95_test_vectors.md, single-step
vectors of that file, and a witness for the hypotheses of every statement. Expected values come from the vectors. -/

namespace Sys2Proof.Tests

open Sys2Proof.Machine

/-! ### States -/

/-- A small well-formed configuration: CAP = 16, so HALF = 8. -/
def tiny : Config where
  cap := 16
  tickBytes := 4
  rxMargin := 4
  portWords := 2
  primeSlot0 := 0
  primeSlot1 := 1
  nRegs := 2
  dataBits := 10
  frameBits := 12
  indexShift := 10
  indexBits := 1
  readFlagBit := 11
  regDefaults := [5, 0]
  chipResponse := .oracle
  usbqDepth := 2
  cmdDepth := 2
  rspDepth := 1

/-- The small configuration with an ECHO chip. -/
def tinyEcho : Config := { tiny with chipResponse := .echo }

/-- The small block after reset. -/
def small : State := State.resetWith tiny

/-- A state whose next command word is `w`. -/
def holding (w : Word) (s : State) : State := { s with cmdq := [w] }

/-- A state whose next turn is `t`. -/
def atTurn (t : Turn) (s : State) : State := { s with agenda := [t] }

/-- The next state, if there is one. -/
def result (a : Answer) : Option State :=
  match a with
  | .next t => some t
  | .fault _ => none
  | .refused _ => none

/-- The state after a step, for the witnesses. -/
def after (s : State) : State := (result (step s)).getD s

/-- The reference block after INIT (S-1). -/
def ready : State := { State.reset with bufReady := true }

/-- The reference block in RX (M-6). -/
def inRx : State :=
  { ready with
    mode := .rx, lines := 0b101, offset := 16352, phase := 1, clkEn := true, epoch := 1, port := [some 0, some 0] }

/-- A STREAM descriptor of epoch 1. -/
def stream1 (d : Dir) (h : Half) (t : Bool) : Descriptor := { dir := d, half := h, kind := .stream, epoch := 1, tainted := t }

/-- The small block in RX. -/
def smallRx : State :=
  { small with
    bufReady := true, mode := .rx, lines := 0b101, offset := 12, phase := 1, clkEn := true, epoch := 1
    port := [some 0, some 0] }

/-- The small block in TX, waiting for its fill. -/
def smallWait : State :=
  { small with
    bufReady := true, mode := .tx, lines := 0b011, offset := 16, fillPending := true, epoch := 1
    outq := [fillDescriptor 1] }

/-- The small block streaming in TX. -/
def smallTx : State :=
  { small with
    bufReady := true, mode := .tx, lines := 0b011, clkEn := true, epoch := 1, port := [some 1, some 2]
    buf := [(0, 10), (1, 11), (2, 12), (3, 13)] }

/-- The small ECHO block after a flush: clean, and in agreement with the chip. -/
def smallClean : State :=
  { State.resetWith tinyEcho with dirty := [false, false], chipreg := [some 5, some 0] }

/-! ### Well-formed configurations and commands (00 R13, R14; 30 R132, R140) -/

theorem test_reference_wellFormed : Config.reference.wellFormed = true := by decide

theorem test_tiny_wellFormed : tiny.wellFormed = true ∧ tinyEcho.wellFormed = true := by decide

theorem test_cap_refused :
    ({ tiny with cap := 17 } : Config).capOk = false ∧ ({ tiny with cap := 2 ^ 19 + 2 } : Config).capOk = false ∧
      ({ tiny with cap := 17 } : Config).wellFormed = false := by decide

theorem test_tick_refused :
    ({ tiny with tickBytes := 0 } : Config).tickOk = false ∧ ({ tiny with tickBytes := 2 } : Config).tickOk = false ∧
      ({ tiny with cap := 20 } : Config).tickOk = false ∧ ({ tiny with tickBytes := 2 } : Config).wellFormed = false := by
  decide

theorem test_margin_refused :
    ({ tiny with rxMargin := 0 } : Config).marginOk = false ∧ ({ tiny with rxMargin := 6 } : Config).marginOk = false ∧
      ({ tiny with rxMargin := 12 } : Config).marginOk = false ∧
      ({ tiny with rxMargin := 12 } : Config).wellFormed = false := by decide

theorem test_port_refused :
    ({ tiny with portWords := 1 } : Config).portOk = false ∧ ({ tiny with primeSlot1 := 0 } : Config).portOk = false ∧
      ({ tiny with primeSlot0 := 2 } : Config).portOk = false ∧ ({ tiny with primeSlot1 := 2 } : Config).portOk = false ∧
      ({ tiny with primeSlot1 := 0 } : Config).wellFormed = false := by decide

theorem test_regs_refused :
    ({ tiny with dataBits := 9 } : Config).regsOk = false ∧ ({ tiny with dataBits := 17 } : Config).regsOk = false ∧
      ({ tiny with nRegs := 0 } : Config).regsOk = false ∧
      ({ tiny with nRegs := 257, indexBits := 9 } : Config).regsOk = false ∧
      ({ tiny with nRegs := 3 } : Config).regsOk = false ∧ ({ tiny with nRegs := 3 } : Config).wellFormed = false := by
  decide

theorem test_frame_refused :
    ({ tiny with indexShift := 9 } : Config).frameOk = false ∧ ({ tiny with readFlagBit := 9 } : Config).frameOk = false ∧
      ({ tiny with readFlagBit := 10 } : Config).frameOk = false ∧
      ({ tiny with frameBits := 11 } : Config).frameOk = false ∧
      ({ tiny with indexShift := 12 } : Config).frameOk = false ∧
      ({ tiny with frameBits := 11 } : Config).wellFormed = false := by decide

theorem test_defaults_refused :
    ({ tiny with regDefaults := [5] } : Config).defaultsOk = false ∧
      ({ tiny with regDefaults := [5, 1024] } : Config).defaultsOk = false ∧
      ({ tiny with regDefaults := [5] } : Config).wellFormed = false := by decide

theorem test_depths_refused :
    ({ tiny with usbqDepth := 1 } : Config).depthsOk = false ∧ ({ tiny with cmdDepth := 0 } : Config).depthsOk = false ∧
      ({ tiny with rspDepth := 0 } : Config).depthsOk = false ∧
      ({ tiny with rspDepth := 0 } : Config).wellFormed = false := by decide

theorem test_instr_refused :
    Instr.wellFormed tiny (.setMode 2) = true ∧ Instr.wellFormed tiny (.setMode 3) = false ∧
      Instr.wellFormed tiny (.setPower 3) = true ∧ Instr.wellFormed tiny (.setPower 4) = false ∧
      Instr.wellFormed tiny (.regWrite 1 0) = true ∧ Instr.wellFormed tiny (.regWrite 2 0) = false ∧
      Instr.wellFormed tiny (.regRead 2) = false ∧ Instr.wellFormed tiny (.regSet 2 0) = false := by decide

/-- 00 R14, 70 R375: a step of an ill-formed build is refused. -/
theorem test_step_refused : step (State.resetWith { tiny with cap := 17 }) = .refused .illFormedConfig := by rfl

/-! ### Decoding (95 E-1, E-2) -/

/-- E-1: each word, from the bit patterns of 30 R138, and its command. -/
theorem test_decode_listed :
    decode 0x10000000 = .instr .init ∧ decode 0x20000000 = .instr (.setMode 0) ∧
      decode 0x22000000 = .instr (.setMode 2) ∧ decode 0x30000000 = .instr .getMode ∧
      decode 0x41000000 = .instr (.setPower 1) ∧ decode 0x50000000 = .instr .getPower ∧
      decode 0x600301AB = .instr (.regWrite 3 0x1AB) ∧ decode 0x70030000 = .instr (.regRead 3) ∧
      decode 0x80050155 = .instr (.regSet 5 0x155) ∧ decode 0x90000000 = .instr .regFlush ∧
      decode 0xA0000000 = .instr .schedStep ∧ decode 0xB0000000 = .instr .queryStart ∧
      decode 0xC0000000 = .instr .getStatus := by decide

/-- The same for words with every operand bit set (30 R130). -/
theorem test_decode_bits :
    decode 0b01100000111111111111111111111111 = .instr (.regWrite 255 65535) ∧
      decode 0b01110000100000010000000000000000 = .instr (.regRead 129) ∧
      decode 0b10000000000000011000000000000000 = .instr (.regSet 1 32768) ∧
      decode 0b00101111000000000000000000000000 = .instr (.setMode 15) ∧
      decode 0b01001000000000000000000000000000 = .instr (.setPower 8) := by decide

/-- E-2: words that are no command. -/
theorem test_decode_refused :
    decode 0x00000000 = .bad .illegalOpcode ∧ decode 0xD0000000 = .bad .illegalOpcode ∧
      decode 0xEFFFFFFF = .bad .illegalOpcode ∧ decode 0xF0000000 = .bad .illegalOpcode ∧
      decode 0x10000001 = .bad .illegalOperand ∧ decode 0x21010000 = .bad .illegalOperand ∧
      decode 0x31000000 = .bad .illegalOperand ∧ decode 0x61030000 = .bad .illegalOperand ∧
      decode 0x70030001 = .bad .illegalOperand ∧ decode 0x71FF0001 = .bad .illegalOperand := by decide

/-- E-1: the encoder's words. -/
theorem test_encode_listed :
    encode .init = 0x10000000 ∧ encode (.setMode 1) = 0x21000000 ∧ encode .getMode = 0x30000000 ∧
      encode (.setPower 3) = 0x43000000 ∧ encode .getPower = 0x50000000 ∧ encode (.regWrite 3 0x1AB) = 0x600301AB ∧
      encode (.regRead 3) = 0x70030000 ∧ encode (.regSet 5 0x155) = 0x80050155 ∧ encode .regFlush = 0x90000000 ∧
      encode .schedStep = 0xA0000000 ∧ encode .queryStart = 0xB0000000 ∧ encode .getStatus = 0xC0000000 := by decide

/-- What a word does from reset: the fault code and the fault word it leaves. -/
def faultFromReset (w : Word) : Option (BitVec 4 × Word) :=
  (result (step (holding w State.reset))).map fun t => (t.faultCode, t.faultWord)

/-- E-2: the verdicts from reset. -/
theorem test_verdicts :
    faultFromReset 0xEFFFFFFF = some (1, 0xEFFFFFFF) ∧ faultFromReset 0x10000001 = some (2, 0x10000001) ∧
      faultFromReset 0x23000000 = some (2, 0x23000000) ∧ faultFromReset 0x21010000 = some (2, 0x21010000) ∧
      faultFromReset 0x44000000 = some (2, 0x44000000) ∧ faultFromReset 0x71FF0001 = some (2, 0x71FF0001) := by
  decide

theorem test_verdicts_state :
    faultFromReset 0x60200000 = some (3, 0x60200000) ∧ faultFromReset 0x70FF0000 = some (3, 0x70FF0000) ∧
      faultFromReset 0x80200155 = some (3, 0x80200155) ∧ faultFromReset 0x601F03FF = some (0, 0) ∧
      faultFromReset 0x21000000 = some (4, 0x21000000) ∧ faultFromReset 0xA0000000 = some (4, 0xA0000000) := by decide

/-- The host's placing of a word: the very next step takes it. -/
theorem test_withFetchWord :
    (result (step (State.reset.withFetchWord 32 0x10000000))).map (·.bufReady) = some true ∧
      decodeTableWord 32 0x600301AB = some (.regWrite 3 0x1AB) ∧ decodeTableWord 32 0xD0000000 = none := by decide

/-! ### Frames (95 E-3) -/

theorem test_frames :
    wframe .reference 3 0x1AB = 0x0DAB ∧ wframe .reference 31 0x3FF = 0x7FFF ∧ wframe .reference 3 0xFFFF = 0x0FFF ∧
      wframe .reference 1 0x0400 = 0x0400 ∧ rframe .reference 3 = 0x8C00 ∧ rframe .reference 31 = 0xFC00 ∧
      extractValue .reference 0xFDAB = 0x1AB ∧ extractValue .reference 0x8C00 = 0 := by decide

/-! ### The assembler (30 R160 to R162; 95 E-1) -/

theorem test_assemble_commands :
    assemble "init ; comment".toList = some [0x10000000] ∧ assemble "SET_MODE TX".toList = some [0x22000000] ∧
      assemble "REG_WRITE 3, 0x1AB".toList = some [0x600301AB] ∧
      assemble "SET_POWER STANDBY".toList = some [0x41000000] ∧ assemble "REG_READ 256".toList = none := by decide

theorem test_assemble_pseudo :
    assemble "REG_SETF 2, 0x0AA".toList = some [0x800200AA, 0x90000000] ∧
      assemble "RX_START\n\n.word 0xD0000000".toList = some [0x21000000, 0xD0000000] := by decide

/-! ### The register bus (95 B) -/

/-- B-1. -/
theorem test_regWrite :
    (result (exec (.regWrite 3 0x1AB) State.reset)).map (fun t => (cacheAt t 3, dirtyAt t 3, t.events)) =
      some (0x1AB, false, [.busFrame 0x0DAB 0]) := by decide

/-- B-2. -/
theorem test_regWrite_masked :
    (result (exec (.regWrite 1 0xFC00) State.reset)).map (fun t => (cacheAt t 1, t.events)) =
      some (0, [.busFrame 0x0400 0]) := by decide

/-- B-3, B-4 and B-5, on register 5 and 7. -/
theorem test_regSet :
    (result (exec (.regSet 5 0x155) { State.reset with dirty := List.replicate 32 false })).map
        (fun t => (cacheAt t 5, dirtyAt t 5, t.events)) = some (0x155, true, []) ∧
      (result (exec (.regSet 7 0x400) State.reset)).map (fun t => (cacheAt t 7, dirtyAt t 7)) = some (0, true) := by
  decide

/-- B-9, on a small block: one frame per dirty register. -/
theorem test_regFlush :
    (result (exec .regFlush { small with cache := [0x0AA, 0x155], dirty := [false, true] })).map
      (fun t => (t.dirty, t.events)) = some ([false, false], [.busFrame 0x555 0]) := by decide

/-- W5: under ECHO a clean register reads back from the chip. -/
theorem test_regRead_echo :
    (result (exec (.regRead 0) smallClean)).map (fun t => (t.cache, t.draws)) = some ([5, 0], 1) := by decide

/-! ### The mode controller (95 M) -/

/-- M-1. -/
theorem test_setPower :
    (result (exec (.setPower 1) State.reset)).map (fun t => (t.lines, t.mode, t.events)) =
      some (0b001, .off, [.lineWrite .rxen false, .lineWrite .txen false, .lineWrite .en true]) := by decide

/-- M-2. -/
theorem test_getPower :
    powerResponse 0b000 = 0x00 ∧ powerResponse 0b001 = 0x11 ∧ powerResponse 0b011 = 0x32 ∧ powerResponse 0b101 = 0x53 := by
  decide

/-- M-9. -/
theorem test_getMode : (result (exec .getMode inRx)).map (·.rspq) = some [1] := by decide

/-- M-6. -/
theorem test_setMode_rx :
    (result (exec (.setMode 1) ready)).map (fun t => (t.mode, t.lines, t.offset, t.phase)) =
        some (.rx, 0b101, 16352, 1) ∧
      (result (exec (.setMode 1) ready)).map (fun t => (t.clkEn, t.port, t.epoch)) = some (true, [some 0, some 0], 1) := by
  decide

/-- M-7. -/
theorem test_setMode_tx :
    (result (exec (.setMode 2) { inRx with inq := [stream1 .inn 0 false], phase := 0 })).map
        (fun t => (t.offset, t.fillPending, t.clkEn, t.inq, t.outq)) =
      some (16384, true, false, [stream1 .inn 0 false], [fillDescriptor 2]) := by decide

/-! ### The stream (95 S) -/

/-- S-1, and the second INIT of E-2. -/
theorem test_init :
    (result (exec .init State.reset)).map (·.bufReady) = some true ∧
      (result (exec .init ready)).map (·.faultCode) = some 8 := by decide

/-- S-3, and S-6's answer once the fill is in. -/
theorem test_queryStart :
    (result (exec .queryStart ready)).map (·.rspq) = some [0] ∧
      (result (exec .queryStart smallTx)).map (·.rspq) = some [1] := by decide

/-- M-6's status word, and S-16's. -/
theorem test_getStatus :
    (result (exec .getStatus inRx)).map (·.rspq) = some [0x01B03FE0] ∧
      (result (exec .getStatus { inRx with xrunCount := 100, offset := 64, phase := 0 })).map (·.rspq) =
        some [0xFDA00040] := by decide

/-- P1 step 3: half 0 is owed at offset 16352. -/
theorem test_schedStep_first :
    (result (exec .schedStep inRx)).map (fun t => (t.inq, t.phase, t.seq)) =
      some ([stream1 .inn 0 false], 0, .step2) := by decide

/-- P1 step 5: half 1 is owed at offset 0. -/
theorem test_schedStep_second :
    (result (step { inRx with seq := .step2, offset := 0, phase := 0 })).map (fun t => (t.inq, t.phase, t.seq)) =
      some ([stream1 .inn 1 false], 1, .idle) := by decide

/-- S-6, on the small block: the fill, the priming and the clock. -/
theorem test_fill :
    (result (step (atTurn (.usbOut [1, 2, 3, 4, 5, 6, 7, 8]) smallWait))).map
        (fun t => (t.port, t.clkEn, t.fillPending, t.offset, byteAt t.buf 7)) =
      some ([some 0x04030201, some 0x08070605], true, false, 0, some 8) := by decide

/-- S-8: a stale fill writes its half and starts nothing. -/
theorem test_stale_fill :
    (result (step (atTurn (.usbOut [1, 2, 3, 4, 5, 6, 7, 8]) { smallWait with epoch := 3 }))).map
        (fun t => (t.clkEn, t.fillPending, t.outq, byteAt t.buf 0)) = some (false, true, [], some 1) := by decide

/-- S-10 and S-11, on the small block: a tick, and a tick that is an xrun. -/
theorem test_tick_rx :
    (result (step (atTurn (.tick [1, 2, 3, 4]) smallRx))).map (fun t => (t.offset, t.xrunCount, byteAt t.buf 12)) =
        some (0, 0, some 1) ∧
      (result (step (atTurn (.tick [1, 2, 3, 4]) { smallRx with offset := 0, inq := [stream1 .inn 0 false] }))).map
          (fun t => (t.offset, t.xrunCount, t.inq)) = some (4, 1, [stream1 .inn 0 true]) := by decide

/-- P2 step 9, on the small block. -/
theorem test_tick_tx :
    (result (step (atTurn (.tick []) smallTx))).map (fun t => (t.offset, t.events)) =
      some (4, [.portOut 0 [10, 11, 12, 13]]) := by decide

/-- S-18: the clock runs on in HALTED. -/
theorem test_tick_halted :
    (result (step (atTurn (.tick [1, 2, 3, 4]) { smallRx with seq := .halted }))).map (fun t => (t.seq, t.offset)) =
      some (.halted, 0) := by decide

/-- 10 R75, 42 R262: words are taken in the order the host pushed them. -/
theorem test_fifo :
    (result (step (atTurn (.hostPush 0x30000000) (holding 0x10000000 small)))).map (·.cmdq) =
        some [0x10000000, 0x30000000] ∧
      (result (step { small with cmdq := [0x10000000, 0x30000000] })).map (fun t => (t.bufReady, t.cmdq)) =
        some (true, [0x30000000]) := by decide

/-! ### Witnesses: the hypotheses of each statement, met together

A statement whose hypotheses only bound an operand, or name an answer of `exec` or `step`, has that bound or answer. -/

theorem witness_EncodeOfDecode : decode 0x600301AB = .instr (.regWrite 3 0x1AB) := by decide

/-- The small block takes any word it is given. -/
theorem takes_holding (w : Word) : Takes (holding w small) w [] :=
  ⟨test_tiny_wellFormed.1, rfl, rfl, rfl, by unfold heldBack; exact Bool.and_false _⟩

theorem witness_ReservedOpcodeFaults :
    Takes (holding 0x0FFFFFFF small) 0x0FFFFFFF [] ∧ (0x0FFFFFFF : Word).toNat / 2 ^ 28 = 0x0 ∧
      Takes (holding 0xD0000000 small) 0xD0000000 [] ∧ (0xD0000000 : Word).toNat / 2 ^ 28 = 0xD ∧
      Takes (holding 0xE0000000 small) 0xE0000000 [] ∧ (0xE0000000 : Word).toNat / 2 ^ 28 = 0xE ∧
      Takes (holding 0xFFFFFFFF small) 0xFFFFFFFF [] ∧ (0xFFFFFFFF : Word).toNat / 2 ^ 28 = 0xF :=
  ⟨takes_holding _, by decide, takes_holding _, by decide, takes_holding _, by decide, takes_holding _, by decide⟩

/-- One word for each clause of IllegalOperandFaults, at a lone must-be-zero bit or the least reserved code; the small block
takes each (`takes_holding`). -/
theorem witness_IllegalOperandFaults :
    (let w : Word := 0x10000001; w.toNat / 2 ^ 28 = 0x1 ∧ w.toNat % 65536 ≠ 0) ∧
      (let w : Word := 0x21010000; w.toNat / 2 ^ 28 = 0x2 ∧ w.toNat / 2 ^ 16 % 256 ≠ 0) ∧
      (let w : Word := 0x71000000; w.toNat / 2 ^ 28 = 0x7 ∧ w.toNat / 2 ^ 24 % 16 ≠ 0) ∧
      (let w : Word := 0x88000000; w.toNat / 2 ^ 28 = 0x8 ∧ w.toNat / 2 ^ 24 % 16 ≠ 0) ∧
      (let w : Word := 0x23000000; w.toNat / 2 ^ 28 = 0x2 ∧ 3 ≤ w.toNat / 2 ^ 24 % 16) ∧
      (let w : Word := 0x44000000; w.toNat / 2 ^ 28 = 0x4 ∧ 4 ≤ w.toNat / 2 ^ 24 % 16) := by decide

theorem witness_StepRunsTheDecodedCommand :
    Takes (holding 0x10000000 small) 0x10000000 [] ∧ decode 0x10000000 = .instr .init :=
  ⟨takes_holding _, by decide⟩

/-- The small block with its response FIFO full. -/
def rspFullSmall : State := { small with rspq := [7] }

/-- ResponseHold: a query, and a faulting word with a query's opcode. -/
theorem witness_ResponseHold :
    rspFullSmall.cfg.wellFormed = true ∧ nextTurn (holding 0x30000000 rspFullSmall) = .sequencer ∧
      (holding 0x30000000 rspFullSmall).cmdq = [0x30000000] ∧ (0x30000000 : Word).toNat / 2 ^ 28 = 0x3 ∧
      (holding 0xC0000001 rspFullSmall).seq = .idle ∧ (0xC0000001 : Word).toNat / 2 ^ 28 = 0xC ∧
      rspFullSmall.rspq.length = rspFullSmall.cfg.rspDepth := by decide

/-- Between the two steps of a SCHED_STEP, at the Sequencer's turn and at the clock's. -/
def between : State := { smallRx with seq := .step2 }

def betweenTick : State := atTurn (.tick [1, 2, 3, 4]) between

theorem witness_NoCommandBetweenSchedSteps :
    (step between = .next (after between) ∧ between.seq = .step2 ∧ nextTurn between = .sequencer) ∧
      step betweenTick = .next (after betweenTick) ∧ betweenTick.seq = .step2 ∧ nextTurn betweenTick ≠ .sequencer ∧
      nextTurn betweenTick ≠ .hostReset :=
  ⟨⟨rfl, rfl, rfl⟩, rfl, rfl, by decide, by decide⟩

/-- RegWriteResult and RegSetResult, at the least and the greatest index, with the value equal to the cache and not. -/
theorem witness_register_index :
    (0 : BitVec 8).toNat < small.cfg.nRegs ∧ (1 : BitVec 8).toNat < small.cfg.nRegs ∧
      (0x405 : BitVec 16).toNat % 2 ^ small.cfg.dataBits = (cacheAt small 0).toNat ∧
      (0x406 : BitVec 16).toNat % 2 ^ small.cfg.dataBits ≠ (cacheAt small 0).toNat := by decide

/-- RegReadResult: ORACLE, ECHO with an undefined register, ECHO with a defined one. -/
theorem witness_RegReadResult :
    (small.cfg.wellFormed = true ∧ small.cfg.chipResponse = .oracle) ∧
      (tinyEcho.wellFormed = true ∧ chipregAt (State.resetWith tinyEcho) 1 = none) ∧
      smallClean.cfg.chipResponse = .echo ∧ chipregAt smallClean 0 = some 5 := by decide

theorem witness_BadIndexFaults :
    small.cfg.nRegs ≤ (2 : BitVec 8).toNat ∧ small.cfg.nRegs ≤ (255 : BitVec 8).toNat := by decide

theorem witness_FrameFieldsReadBack : tiny.wellFormed = true ∧ 0 < tiny.nRegs ∧ 1 < tiny.nRegs := by decide

theorem smallClean_shape : ShapeInv smallClean :=
  ⟨rfl, (wf_defaults test_tiny_wellFormed.2).2, rfl, rfl, rfl, List.Pairwise.nil, by decide, by decide, by decide, by decide, by decide⟩

theorem smallClean_agrees : ChipAgrees smallClean := by
  intro _ i hi _
  match i, hi with
  | 0, _ => rfl
  | 1, _ => rfl

/-- WriteFlushReadBack: a clean register, and values equal to its cached one (5) and not. -/
theorem witness_WriteFlushReadBack :
    smallClean.cfg.wellFormed = true ∧ smallClean.cfg.chipResponse = .echo ∧ ShapeInv smallClean ∧
      ChipAgrees smallClean ∧ (0 : BitVec 8).toNat < smallClean.cfg.nRegs ∧ dirtyAt smallClean 0 = false :=
  ⟨test_tiny_wellFormed.2, rfl, smallClean_shape, smallClean_agrees, by decide, rfl⟩

/-- The small block about to flush. -/
def flushing : State := holding 0x90000000 small

theorem witness_DirtyClearedOnlyWithItsFrame :
    step flushing = .next (after flushing) ∧ ShapeInv flushing ∧ 1 < flushing.cfg.nRegs ∧ dirtyAt flushing 1 = true ∧
      dirtyAt (after flushing) 1 = false :=
  ⟨rfl, ⟨rfl, (wf_defaults test_tiny_wellFormed.1).2, rfl, rfl, rfl, List.Pairwise.nil, by decide, by decide, by decide, by decide, by decide⟩,
    by decide, rfl, rfl⟩

/-- SetPowerResult and SetModeFaults: every clause's codes, at their bounds. -/
theorem witness_codes :
    4 ≤ (4 : BitVec 4).toNat ∧ 4 ≤ (15 : BitVec 4).toNat ∧ 3 ≤ (3 : BitVec 4).toNat ∧ small.bufReady = false := by decide

theorem witness_LinesMutuallyExclusive :
    (legalLines 0b000 = true ∧ legalLines 0b001 = true ∧ legalLines 0b011 = true ∧ legalLines 0b101 = true) ∧
      step flushing = .next (after flushing) ∧ legalLines flushing.lines = true := ⟨by decide, rfl, rfl⟩

theorem witness_SameModeOnlyDrivesLines :
    (modeOfCode 0 = some small.mode ∧ small.mode = .off) ∧
      (modeOfCode 1 = some smallRx.mode ∧ smallRx.bufReady = true) ∧
      (modeOfCode 2 = some smallTx.mode ∧ smallTx.bufReady = true) := by decide

/-- SetModeOffResult, SetModeRxResult and SetModeTxResult, each from the other streaming mode. -/
theorem witness_mode_changes :
    (smallRx.mode ≠ .off ∧ smallTx.mode ≠ .off) ∧
      (smallTx.cfg.wellFormed = true ∧ smallTx.mode ≠ .rx ∧ smallTx.bufReady = true) ∧
      (smallRx.cfg.wellFormed = true ∧ smallRx.mode ≠ .tx ∧ smallRx.bufReady = true ∧
        smallRx.outq.length < smallRx.cfg.usbqDepth) := by decide

/-- A block in RX whose OUTQ is full. -/
def fullOut : State := { smallRx with outq := [stream1 .out 0 false, stream1 .out 1 false] }

theorem witness_SetModeFaults :
    fullOut.bufReady = true ∧ fullOut.mode ≠ .tx ∧ fullOut.cfg.usbqDepth ≤ fullOut.outq.length := by decide

theorem witness_LinesEncodeModePower :
    exec (.setMode 1) smallTx = .next (changeMode .rx smallTx) ∧ ∀ f w, changeMode .rx smallTx ≠ raiseFault f w smallTx :=
  ⟨rfl, fun _ _ h => by cases congrArg State.seq h⟩

theorem witness_SetModeIdempotent : exec (.setMode 1) smallTx = .next (changeMode .rx smallTx) := rfl

theorem witness_InitResult : small.bufReady = false ∧ smallRx.bufReady = true := by decide

/-- Streaming states at the boundary offsets of a half: 7 and 8. -/
def rxAt7 : State := { smallRx with offset := 7, phase := 0 }

def rxAt8 : State := { smallRx with offset := 8 }

def txAt7 : State := { smallTx with offset := 7 }

def txAt8 : State := { smallTx with offset := 8, phase := 1 }

theorem witness_SchedStepFirst :
    (rxAt8.bufReady = true ∧ rxAt8.fillPending = false ∧ rxAt8.mode = .rx ∧ rxAt8.cfg.half ≤ rxAt8.offset.toNat ∧
      rxAt8.phase = 1 ∧ rxAt8.inq.length < rxAt8.cfg.usbqDepth) ∧
    (txAt8.bufReady = true ∧ txAt8.fillPending = false ∧ txAt8.mode = .tx ∧ txAt8.cfg.half ≤ txAt8.offset.toNat ∧
      txAt8.phase = 1 ∧ txAt8.outq.length < txAt8.cfg.usbqDepth) ∧
    (rxAt7.bufReady = true ∧ rxAt7.fillPending = false ∧ rxAt7.mode ≠ .off ∧ rxAt7.offset.toNat < rxAt7.cfg.half ∧
      rxAt7.phase = 0) := by decide

/-- The Sequencer at turn in STEP2. -/
def atStep2 (s : State) : State := { s with seq := .step2 }

theorem witness_SchedStepSecond :
    (nextTurn (atStep2 rxAt7) = .sequencer ∧ (atStep2 rxAt7).seq = .step2 ∧ rxAt7.cfg.wellFormed = true) ∧
    (rxAt7.mode = .rx ∧ rxAt7.offset.toNat < rxAt7.cfg.half ∧ rxAt7.phase = 0 ∧
      rxAt7.inq.length < rxAt7.cfg.usbqDepth) ∧
    (txAt7.mode = .tx ∧ txAt7.offset.toNat < txAt7.cfg.half ∧ txAt7.phase = 0 ∧
      txAt7.outq.length < txAt7.cfg.usbqDepth) ∧
    txAt8.cfg.half ≤ txAt8.offset.toNat ∧ txAt8.phase = 1 := by decide

theorem witness_SchedStepFaults :
    small.bufReady = false ∧ (ready.bufReady = true ∧ ready.mode = .off) ∧ smallWait.bufReady = true ∧
      smallWait.mode ≠ .off ∧ smallWait.fillPending = true := by decide

/-- Both queues full. -/
def full (s : State) : State :=
  { s with
    inq := [stream1 .inn 0 false, stream1 .inn 1 false], outq := [stream1 .out 0 false, stream1 .out 1 false] }

/-- QueueOverflowFaults: the queues are full in every direction; the other premises are those of the states above. -/
theorem witness_QueueOverflowFaults :
    (full rxAt8).cfg.usbqDepth ≤ (full rxAt8).inq.length ∧ (full txAt8).cfg.usbqDepth ≤ (full txAt8).outq.length ∧
      (full rxAt8).cfg.half ≤ (full rxAt8).offset.toNat ∧ (full rxAt8).phase = 1 ∧ (full rxAt8).mode = .rx ∧
      (full rxAt8).bufReady = true ∧ (full rxAt8).fillPending = false ∧
      nextTurn (atStep2 (full txAt7)) = .sequencer ∧ (full txAt7).offset.toNat < (full txAt7).cfg.half ∧
      (full txAt7).phase = 0 ∧ (full txAt7).mode = .tx := by decide

theorem witness_QueryStartResult :
    (smallTx.mode ≠ .off ∧ smallTx.fillPending = false) ∧ small.mode = .off ∧ smallWait.fillPending = true := by decide

/-- RxTick and TxTick: at turn, with the clock on, at the last tick of the buffer and at its first. -/
theorem witness_ticks :
    (smallRx.cfg.wellFormed = true ∧ nextTurn (atTurn (.tick [1, 2, 3, 4]) smallRx) = .tick [1, 2, 3, 4] ∧
      smallRx.clkEn = true ∧ smallRx.mode = .rx ∧ smallRx.offset.toNat < smallRx.cfg.cap) ∧
    (smallTx.cfg.wellFormed = true ∧ nextTurn (atTurn (.tick []) smallTx) = .tick [] ∧ smallTx.clkEn = true ∧
      smallTx.mode = .tx ∧ smallTx.offset.toNat < smallTx.cfg.cap) := by decide

/-- The two cases of each tick: a descriptor of the tick's half in flight, and none. -/
theorem witness_tick_cases :
    (∀ d ∈ smallRx.inq, d.half ≠ 1) ∧ (∃ d ∈ (full smallRx).inq, d.half = 1) ∧ (∀ d ∈ smallTx.outq, d.half ≠ 0) ∧
      ∃ d ∈ (full smallTx).outq, d.half = 0 := by decide

theorem witness_UsbInCompletion :
    (full smallRx).cfg.wellFormed = true ∧ nextTurn (atTurn .usbIn (full smallRx)) = .usbIn ∧
      (full smallRx).inq = stream1 .inn 0 false :: [stream1 .inn 1 false] ∧ (stream1 .inn 0 false).kind = .stream ∧
      (stream1 .inn 0 false).tainted = false ∧ (stream1 .inn 0 true).tainted = true := by decide

/-- A stale FILL at the head of OUTQ. -/
def staleFill : State := atTurn (.usbOut []) { smallWait with epoch := 2 }

/-- UsbOutCompletion: a stale FILL, and a current STREAM transfer. -/
theorem witness_UsbOutCompletion :
    (staleFill.cfg.wellFormed = true ∧ nextTurn staleFill = .usbOut [] ∧ staleFill.outq = [fillDescriptor 1] ∧
      (fillDescriptor 1).epoch ≠ staleFill.epoch) ∧
    ((full smallTx).outq = stream1 .out 0 false :: [stream1 .out 1 false] ∧ (stream1 .out 0 false).kind = .stream) := by
  decide

/-- The fill of the small block, whose half is exactly 8 bytes, at its turn. -/
def filling : State := atTurn (.usbOut [1, 2, 3, 4, 5, 6, 7, 8]) smallWait

theorem witness_FillCompletion :
    filling.cfg.wellFormed = true ∧ 8 ≤ filling.cfg.half ∧ nextTurn filling = .usbOut [1, 2, 3, 4, 5, 6, 7, 8] ∧
      [1, 2, 3, 4, 5, 6, 7, (8 : Byte)].length = filling.cfg.half ∧ filling.fillPending = true ∧
      filling.outq = [fillDescriptor filling.epoch] := by decide

theorem filling_queues : QueueInv filling := ⟨by decide, by decide, by decide, rfl⟩

theorem filling_next : step filling = .next (after filling) := rfl

theorem witness_TxClockOnlyAfterFill :
    QueueInv filling ∧ step filling = .next (after filling) ∧ filling.clkEn = false ∧ (after filling).clkEn = true ∧
      (after filling).mode = .tx := ⟨filling_queues, filling_next, rfl, rfl, rfl⟩

/-- InterruptContextFrame, OtherAgentsIgnoreSeq, OnlyCommandsFault and HistoryOnlyGrows. -/
theorem witness_other_agents :
    step filling = .next (after filling) ∧ interruptTurn (nextTurn filling) = true ∧ nextTurn filling ≠ .sequencer ∧
      nextTurn filling ≠ .hostReset := ⟨rfl, rfl, by decide, by decide⟩

/-- MainLoopFrame and FaultsArePrecise: a command that answers, and one that halts the Sequencer. -/
theorem witness_commands :
    exec .getMode small = .next (respondedState 0 small) ∧ small.seq ≠ .halted ∧
      exec .schedStep small = .next (faultedState 4 .notInitialized 0xA0000000 small) ∧
      (faultedState 4 .notInitialized 0xA0000000 small).seq = .halted := ⟨rfl, by decide, rfl, rfl⟩

/-- A halted block that is offered a word. -/
def haltedPush : State := atTurn (.hostPush 5) { small with seq := .halted, faultCode := 1 }

theorem witness_HaltedUntilReset :
    step haltedPush = .next (after haltedPush) ∧ haltedPush.seq = .halted ∧ nextTurn haltedPush ≠ .hostReset :=
  ⟨rfl, rfl, by decide⟩

/-- HostPortMoves: room for one word, no room, a response to pop. -/
theorem witness_HostPortMoves :
    small.cfg.wellFormed = true ∧ (holding 1 small).cmdq.length < small.cfg.cmdDepth ∧
      small.cfg.cmdDepth ≤ ({ small with cmdq := [1, 2] } : State).cmdq.length ∧
      nextTurn (atTurn (.hostPush 3) small) = .hostPush 3 ∧ nextTurn (atTurn .hostPop small) = .hostPop ∧
      rspFullSmall.rspq = [7] := by decide

theorem witness_ResetResult :
    smallRx.cfg.wellFormed = true ∧ nextTurn (atTurn .hostReset smallRx) = .hostReset := by decide

theorem witness_ResetMeetsInvariants : tiny.wellFormed = true := test_tiny_wellFormed.1

/-- Every invariant at once, in a state with work to do: the fill pending and its completion next. The statements that a
step keeps an invariant rest on this state. -/
theorem witness_BlockInvariantKept : BlockInv filling ∧ step filling = .next (after filling) :=
  ⟨{ stream := ⟨by decide, by decide, by decide, by decide, by decide, by decide, by decide, by decide⟩
     shape :=
       ⟨rfl, (wf_defaults test_tiny_wellFormed.1).2, rfl, rfl, rfl, List.Pairwise.nil, by decide, by decide, by decide, by decide, by decide⟩
     queues := filling_queues
     chip := fun h => by cases h
     faults := by unfold FaultInv; decide
     step2 := fun h => by cases h
     alternation :=
       { alternating := fun _ => rfl
         no_later := fun _ _ => rfl
         last_is_phase := fun _ h => by cases h } }, rfl⟩

end Sys2Proof.Tests
end

section
/-! The host's moves on the command port (spec/00_scope.md R12): one rule per move and one per turn, and O49 from them. -/

namespace Sys2Proof.Machine

variable {s : State}

theorem hostPushStep_of_room (w : Word) (room : s.cmdq.length < s.cfg.cmdDepth) :
    hostPushStep w s = { s with cmdq := s.cmdq ++ [w] } :=
  if_neg (by simpa [cmdFull] using room)

theorem hostPushStep_of_full (w : Word) (full : s.cfg.cmdDepth ≤ s.cmdq.length) : hostPushStep w s = s :=
  if_pos (decide_eq_true full)

theorem hostPopStep_of_cons {w : Word} {rest : List Word} (head : s.rspq = w :: rest) :
    hostPopStep s = { s with rspq := rest } := by
  simp [hostPopStep, head]

theorem step_hostPush {w : Word} (wf : s.cfg.wellFormed = true) (turn : nextTurn s = .hostPush w) :
    step s = .next (hostPushStep w (dropTurn s)) := by
  rw [step_eq_of_wf wf, turn, takeTurn]

theorem step_hostPop (wf : s.cfg.wellFormed = true) (turn : nextTurn s = .hostPop) :
    step s = .next (hostPopStep (dropTurn s)) := by
  rw [step_eq_of_wf wf, turn, takeTurn]

/-- Settles O49: each move is its turn's step, from the state whose turn is dropped; the two pushes are told apart by the
room in CMDQ. -/
theorem hostPortMoves : Obligations.HostPortMoves := by
  intro s wf
  refine ⟨fun w turn room => ?_, fun w turn full => ?_, fun w rest turn head => ?_⟩
  · rw [step_hostPush wf turn, hostPushStep_of_room w (by simpa using room)]
    rfl
  · rw [step_hostPush wf turn, hostPushStep_of_full w (by simpa using full)]
    rfl
  · rw [step_hostPop wf turn, hostPopStep_of_cons (by simpa using head)]
    rfl

end Sys2Proof.Machine
end

section
/-! One turn of the machine, said once for every invariant: `step_move` inverts the step, `effect_side` sorts the commands
by what they touch, and `tickData_frame` and `completeDescriptor_cases` do the same for the clock and the completions. -/

namespace Sys2Proof.Machine

/-! ### The machine's moves -/

/-- What the turn `turn` makes of `s`, a state whose turn is already dropped. -/
inductive Move (turn : Turn) (s t : State) : Prop where
  | stay (eq : t = s)
  | badWord (f : FaultCode) (w : Word) (rest : List Word) (idle : s.seq = .idle) (head : s.cmdq = w :: rest)
      (eq : t = raiseFault f w (taken w rest s))
  | command (i : Instr) (w : Word) (rest : List Word) (idle : s.seq = .idle) (head : s.cmdq = w :: rest)
      (held : heldBack w s = false) (decoded : decode w = .instr i) (effect : Effect i (taken w rest s) t)
  | overflow (second : s.seq = .step2)
      (eq : t = raiseFault .queueOverflow (encode .schedStep) { s with seq := .idle })
  | schedule (second : s.seq = .step2) (owed : owedHalf1 s = true) (sched : Scheduled 1 { s with seq := .idle } t)
  | pass (second : s.seq = .step2) (eq : t = { s with seq := .idle })
  | tick (samples : List Byte) (on : s.clkEn = true) (inside : s.offset.toNat < s.cfg.cap)
      (eq : t = { tickData samples s.offset.toNat (halfOf s.cfg s.offset.toNat) s with
                  offset := nextOffset s.cfg s.offset.toNat })
  | usbIn (d : Descriptor) (rest : List Descriptor) (head : s.inq = d :: rest)
      (eq : t = completeDescriptor d (inDelivered d rest s))
  | usbOut (given : List Byte) (d : Descriptor) (rest : List Descriptor) (head : s.outq = d :: rest)
      (eq : t = completeDescriptor d (outDelivered given d rest s))
  | push (w : Word) (room : s.cmdq.length < s.cfg.cmdDepth) (eq : t = { s with cmdq := s.cmdq ++ [w] })
  | pop (eq : t = hostPopStep s)
  | reset (asked : turn = .hostReset) (eq : t = resetBlock s)

theorem sequencerStep_move {turn : Turn} {s t : State} (h : sequencerStep s = .next t) : Move turn s t := by
  obtain ⟨-, e⟩ | ⟨idle, w, rest, head, held, ⟨f, e⟩ | ⟨i, decoded, effect⟩⟩ | ⟨second, e⟩ := sequencerStep_cases h
  · exact .stay e
  · exact .badWord f w rest idle head e
  · exact .command i w rest idle head held decoded effect
  · obtain e' | ⟨owed, sched⟩ | ⟨-, e'⟩ := schedStepSecond_cases s
    · exact .overflow second (e.trans e')
    · exact .schedule second owed (e ▸ sched)
    · exact .pass second (e.trans e')

/-- Every turn is one of the moves. -/
theorem takeTurn_move {turn : Turn} {s t : State} (h : takeTurn turn s = .next t) : Move turn s t := by
  cases turn with
  | sequencer => exact sequencerStep_move h
  | tick samples =>
    obtain e | ⟨on, inside, e⟩ := tickStep_cases h
    · exact .stay e
    · exact .tick samples on inside e
  | usbIn =>
    cases h
    obtain ⟨-, e⟩ | ⟨d, rest, head, e⟩ := usbInStep_cases s
    · exact .stay e
    · exact .usbIn d rest head e
  | usbOut given =>
    cases h
    obtain ⟨-, e⟩ | ⟨d, rest, head, e⟩ := usbOutStep_cases given s
    · exact .stay e
    · exact .usbOut given d rest head e
  | hostPush w =>
    cases h
    obtain e | ⟨room, e⟩ := hostPushStep_cases w s
    · exact .stay e
    · exact .push w room e
  | hostPop => cases h; exact .pop rfl
  | hostReset => cases h; exact .reset rfl rfl

/-- A step is a move of a well-formed build, from the state with the turn dropped. -/
theorem step_move {s t : State} (h : step s = .next t) :
    (dropTurn s).cfg.wellFormed = true ∧ Move (nextTurn s) (dropTurn s) t := by
  obtain ⟨wf, turn⟩ := step_next h
  exact ⟨wf, takeTurn_move turn⟩

/-! ### The events that schedule nothing -/

theorem scheduledHalves_append (epoch : Nat) (l new : List Event) :
    scheduledHalves epoch (l ++ new) = scheduledHalves epoch l ++ scheduledHalves epoch new := by
  induction l with
  | nil => rfl
  | cons e l ih =>
    cases e with
    | schedule d =>
      simp only [List.cons_append, scheduledHalves, ih]
      split <;> rfl
    | _ => exact ih

/-- Events none of which is a Schedule event. -/
def SchedulesNothing (new : List Event) : Prop := ∀ epoch, scheduledHalves epoch new = []

theorem schedulesNothing_append {l new : List Event} (hl : SchedulesNothing l) (hnew : SchedulesNothing new) :
    SchedulesNothing (l ++ new) := fun epoch => by
  rw [scheduledHalves_append, hl, hnew, List.append_nil]

theorem schedulesNothing_lineEvents (p : Power) : SchedulesNothing (lineEvents p) := by
  intro epoch
  cases p <;> rfl

theorem schedulesNothing_frames {new : List Event} (h : ∀ e ∈ new, ∃ tx, e = .busFrame tx 0) :
    SchedulesNothing new := by
  intro epoch
  induction new with
  | nil => rfl
  | cons e new ih =>
    obtain ⟨tx, rfl⟩ := h e (by simp)
    exact ih fun e' he' => h e' (by simp [he'])

/-! ### The commands by what they touch -/

/-- Only the register file, the chip, RSPQ, the draw count and the history differ, and nothing is scheduled. -/
def RegisterSide (s t : State) : Prop :=
  ∃ cache dirty chipreg rspq draws new, SchedulesNothing new ∧
    t = { s with
          cache := cache, dirty := dirty, chipreg := chipreg, rspq := rspq, draws := draws
          events := s.events ++ new }

/-- A command's effect as the stream side of the block sees it. -/
inductive Side (s t : State) : Prop where
  | fault (f : FaultCode) (w : Word) (eq : t = raiseFault f w s)
  | ready (eq : t = { s with bufReady := true })
  | lines (p : Power) (eq : t = { s with lines := finalLines p, events := s.events ++ lineEvents p })
  | change (m : Mode) (ready : m ≠ .off → s.bufReady = true) (room : m = .tx → s.outq.length < s.cfg.usbqDepth)
      (eq : t = changeMode m s)
  | registers (side : RegisterSide s t)
  | schedule (ready : s.bufReady = true) (on : s.mode ≠ .off) (nofill : s.fillPending = false)
      (owed : owedHalf0 s = true) (u : State) (sched : Scheduled 0 s u) (eq : t = { u with seq := .step2 })
  | pass (ready : s.bufReady = true) (on : s.mode ≠ .off) (nofill : s.fillPending = false)
      (eq : t = { s with seq := .step2 })

theorem regWrite_eq (i : Nat) (v : RegVal) (s : State) :
    setDirty i false (setCache i v (busWrite i v s)) =
      { s with
        cache := s.cache.set i v, dirty := s.dirty.set i false
        chipreg := if s.cfg.chipResponse = .echo then s.chipreg.set i (some (maskValue s.cfg v)) else s.chipreg
        events := s.events ++ [.busFrame (wframe s.cfg i v) 0] } := by
  rw [busWrite_eq]; rfl

theorem effect_side {i : Instr} {s t : State} (h : Effect i s t) : Side s t := by
  cases h with
  | fault f eq => exact .fault f _ eq
  | ready _ eq => exact .ready eq
  | lines p _ eq => exact .lines p eq
  | change _ m _ ready _ room eq => exact .change m ready room eq
  | respond w _ eq => exact .registers ⟨_, _, _, _, _, [.resp w], fun _ => rfl, eq⟩
  | regWrite idx val _ _ eq => exact .registers ⟨_, _, _, _, _, [.busFrame _ 0], fun _ => rfl, by rw [eq, regWrite_eq]⟩
  | regRead idx w _ _ eq =>
    exact .registers ⟨_, _, _, _, _, [.busFrame _ _] ++ [.resp w], fun _ => rfl, by rw [eq, ← List.append_assoc]; rfl⟩
  | regKeep _ _ _ eq =>
    exact .registers ⟨s.cache, s.dirty, s.chipreg, s.rspq, s.draws, [], fun _ => rfl, by rw [List.append_nil]; exact eq⟩
  | regSet idx val _ _ eq =>
    exact .registers ⟨_, _, s.chipreg, s.rspq, s.draws, [], fun _ => rfl, by rw [List.append_nil]; exact eq⟩
  | flush _ eq =>
    obtain ⟨dirty, chipreg, new, e, frames⟩ := flush_frame (List.range s.cfg.nRegs) s
    exact .registers ⟨_, _, _, _, _, new, schedulesNothing_frames frames, eq.trans e⟩
  | schedule _ ready on nofill owed u sched eq => exact .schedule ready on nofill owed u sched eq
  | pass _ ready on nofill eq => exact .pass ready on nofill eq

/-! ### The agents by what they touch -/

theorem tickData_of_off {samples : List Byte} {o : Nat} {h : Half} {s : State} (off : s.mode = .off) :
    tickData samples o h s = s := by
  rw [tickData, off]

/-- A tick's data part writes at most the tick's bytes of the buffer and the taints of INQ. -/
theorem tickData_frame (samples : List Byte) (o : Nat) (h : Half) (s : State) :
    ∃ buf inq xruns draws new,
      tickData samples o h s =
        { s with buf := buf, inq := inq, xrunCount := xruns, draws := draws, events := s.events ++ new } ∧
      (buf = s.buf ∨ ∃ bytes : List Byte, bytes.length = s.cfg.tickBytes ∧ buf = memWrite s.buf o bytes) ∧
      (inq = s.inq ∨ inq = taintHalf s.inq h) ∧ SchedulesNothing new := by
  cases hm : s.mode with
  | off =>
    refine ⟨s.buf, s.inq, s.xrunCount, s.draws, [], ?_, .inl rfl, .inl rfl, fun _ => rfl⟩
    rw [tickData_of_off hm, List.append_nil, ← hm]
  | rx =>
    refine ⟨_, _, _, _, _, by simp only [tickData, hm, tickRx_eq, List.append_assoc]; rfl, .inr ⟨_, by simp, rfl⟩, ?_, ?_⟩
    · split
      · exact .inr rfl
      · exact .inl rfl
    · exact schedulesNothing_append (fun _ => rfl) (by split <;> exact fun _ => rfl)
  | tx =>
    refine ⟨s.buf, s.inq, _, _, _, by simp only [tickData, hm, tickTx_eq]; rfl, .inl rfl, .inl rfl, ?_⟩
    split <;> exact fun _ => rfl

/-- A completion acts on a pending current FILL, and starts the clock; otherwise it only records itself. -/
theorem completeDescriptor_cases (d : Descriptor) (s : State) :
    (d.epoch = s.epoch ∧ d.kind = .fill ∧ s.fillPending = true ∧
      ∃ w0 w1 new, SchedulesNothing new ∧ completeDescriptor d s =
        { s with
          offset := 0, draws := s.draws + 8, clkEn := true, fillPending := false
          port := (s.port.set s.cfg.primeSlot0 (some w0)).set s.cfg.primeSlot1 (some w1)
          events := s.events ++ new }) ∨
    (completionActs d s = false ∧ completeDescriptor d s = { s with events := s.events ++ [.complete d false] }) := by
  cases h : completionActs d s with
  | true =>
    obtain ⟨hepoch, hkind, hpending⟩ := (completionActs_iff d s).mp h
    exact .inl ⟨hepoch, hkind, hpending, _, _, _, fun _ => rfl, completeDescriptor_acts h⟩
  | false => exact .inr ⟨rfl, completeDescriptor_idle h⟩

end Sys2Proof.Machine
end

section
/-! The event history is append-only and the build is fixed (spec/10_state.md R85). -/

namespace Sys2Proof.Machine

/-- `t` is of the same build as `s`, and its history continues that of `s`. -/
def Extends (s t : State) : Prop := t.cfg = s.cfg ∧ ∃ new, t.events = s.events ++ new

/-- A continuation of a state that has the same build and history as `s`, but for some last events. -/
theorem Extends.of_append {s u t : State} (h : Extends u t) (cfg : u.cfg = s.cfg) (first : List Event)
    (events : u.events = s.events ++ first) : Extends s t := by
  obtain ⟨cfg', new, events'⟩ := h
  exact ⟨cfg'.trans cfg, first ++ new, by rw [events', events, List.append_assoc]⟩

theorem Extends.refl (s : State) : Extends s s := ⟨rfl, [], (List.append_nil _).symm⟩

theorem changeMode_extends (m : Mode) (s : State) : Extends s (changeMode m s) := by
  cases m with
  | off => rw [changeMode_off]; exact ⟨rfl, _, rfl⟩
  | rx => rw [changeMode_rx]; exact ⟨rfl, _, rfl⟩
  | tx => rw [changeMode_tx]; exact ⟨rfl, _, rfl⟩

theorem Scheduled.toExtends {h : Half} {s t : State} (sched : Scheduled h s t) : Extends s t := by
  cases sched with
  | rx _ _ eq | tx _ _ eq => subst eq; exact ⟨rfl, _, rfl⟩

theorem Effect.toExtends {i : Instr} {s t : State} (h : Effect i s t) : Extends s t := by
  cases effect_side h with
  | fault f w eq | lines p eq => subst eq; exact ⟨rfl, _, rfl⟩
  | ready eq | pass _ _ _ eq => subst eq; exact Extends.refl s
  | change m _ _ eq => subst eq; exact changeMode_extends m s
  | registers side =>
    obtain ⟨_, _, _, _, _, new, -, rfl⟩ := side
    exact ⟨rfl, new, rfl⟩
  | schedule _ _ _ _ u sched eq => subst eq; exact sched.toExtends

theorem completeDescriptor_extends (d : Descriptor) (s : State) : Extends s (completeDescriptor d s) := by
  obtain ⟨-, -, -, w0, w1, new, -, e⟩ | ⟨-, e⟩ := completeDescriptor_cases d s
  · rw [e]; exact ⟨rfl, new, rfl⟩
  · rw [e]; exact ⟨rfl, _, rfl⟩

theorem Move.reset_or_extends {turn : Turn} {s t : State} (h : Move turn s t) :
    (turn = .hostReset ∧ t = resetBlock s) ∨ Extends s t := by
  cases h with
  | stay eq | pass _ eq | push _ _ eq | pop eq => subst eq; exact .inr (Extends.refl _)
  | badWord f w rest _ _ eq => subst eq; exact .inr (.of_append (u := taken w rest s) ⟨rfl, _, rfl⟩ rfl [.cmd w] rfl)
  | command i w rest _ _ _ _ effect => exact .inr (effect.toExtends.of_append rfl [.cmd w] rfl)
  | overflow _ eq => subst eq; exact .inr ⟨rfl, _, rfl⟩
  | schedule _ _ sched => exact .inr sched.toExtends
  | tick samples _ _ eq =>
    obtain ⟨_, _, _, _, new, e, -⟩ := tickData_frame samples s.offset.toNat (halfOf s.cfg s.offset.toNat) s
    rw [e] at eq
    subst eq
    exact .inr ⟨rfl, new, rfl⟩
  | usbIn d rest _ eq =>
    exact .inr (eq ▸ (completeDescriptor_extends d (inDelivered d rest s)).of_append rfl [.hostRx d _] rfl)
  | usbOut given d rest _ eq =>
    exact .inr (eq ▸ (completeDescriptor_extends d (outDelivered given d rest s)).of_append rfl [.hostTx d _] rfl)
  | reset asked eq => exact .inl ⟨asked, eq⟩

/-- Settles O51: a reset keeps the build by its definition; every other move extends the history. -/
theorem historyOnlyGrows : Obligations.HistoryOnlyGrows := by
  intro s t h
  obtain ⟨-, move⟩ := step_move h
  obtain ⟨asked, rfl⟩ | ⟨cfg, grows⟩ := move.reset_or_extends
  · exact ⟨rfl, fun notAsked => absurd asked notAsked⟩
  · exact ⟨cfg, fun _ => grows⟩

end Sys2Proof.Machine
end

section
/-! The stream invariants (a) to (g) (spec/10_state.md R55): each operation on the stream side keeps them, and so does every
step. -/

namespace Sys2Proof.Machine

/-! ### The geometry of the buffer (00 R14) -/

theorem cap_mod_tickBytes {c : Config} (wf : c.wellFormed = true) : c.cap % c.tickBytes = 0 := by
  obtain ⟨even, -, -, halfTicks, -, -, -, half, -⟩ := wf_stream wf
  have twice : c.cap = 2 * c.half := by omega
  rw [twice, Nat.mul_mod, halfTicks, Nat.mul_zero, Nat.zero_mod]

theorem cap_pos {c : Config} (wf : c.wellFormed = true) : 0 < c.cap := by
  obtain ⟨-, -, -, -, -, marginPos, marginLe, half, -⟩ := wf_stream wf
  omega

/-- CAP fits OFFSET's 20 bits, and so does every number up to it. -/
theorem offset_toNat {c : Config} (wf : c.wellFormed = true) {n : Nat} (le : n ≤ c.cap) :
    (BitVec.ofNat 20 n).toNat = n := by
  obtain ⟨-, small, -⟩ := wf_stream wf
  exact Nat.mod_eq_of_lt (by omega)

theorem txOffset_mod_tickBytes {c : Config} (wf : c.wellFormed = true) :
    (BitVec.ofNat 20 c.cap).toNat % c.tickBytes = 0 := by
  rw [offset_toNat wf le_rfl, cap_mod_tickBytes wf]

theorem rxOffset_lt_cap {c : Config} (wf : c.wellFormed = true) :
    (BitVec.ofNat 20 (c.cap - c.rxMargin)).toNat < c.cap := by
  obtain ⟨-, -, -, -, -, marginPos, -⟩ := wf_stream wf
  rw [offset_toNat wf (Nat.sub_le ..)]
  exact Nat.sub_lt (cap_pos wf) marginPos

theorem rxOffset_mod_tickBytes {c : Config} (wf : c.wellFormed = true) :
    (BitVec.ofNat 20 (c.cap - c.rxMargin)).toNat % c.tickBytes = 0 := by
  obtain ⟨-, -, -, -, marginTicks, -⟩ := wf_stream wf
  rw [offset_toNat wf (Nat.sub_le ..)]
  exact Nat.mod_eq_zero_of_dvd
    (Nat.dvd_sub (Nat.dvd_of_mod_eq_zero (cap_mod_tickBytes wf)) (Nat.dvd_of_mod_eq_zero marginTicks))

theorem nextOffset_toNat {c : Config} (wf : c.wellFormed = true) (o : Nat) :
    (nextOffset c o).toNat = (o + c.tickBytes) % c.cap :=
  offset_toNat wf (Nat.mod_lt _ (cap_pos wf)).le

theorem nextOffset_lt_cap {c : Config} (wf : c.wellFormed = true) (o : Nat) : (nextOffset c o).toNat < c.cap := by
  rw [nextOffset_toNat wf]
  exact Nat.mod_lt _ (cap_pos wf)

theorem nextOffset_mod_tickBytes {c : Config} (wf : c.wellFormed = true) {o : Nat} (aligned : o % c.tickBytes = 0) :
    (nextOffset c o).toNat % c.tickBytes = 0 := by
  rw [nextOffset_toNat wf, Nat.mod_mod_of_dvd _ (Nat.dvd_of_mod_eq_zero (cap_mod_tickBytes wf)), Nat.add_mod_right, aligned]

/-! ### The operations -/

variable {s t : State}

/-- After a mode change the stream starts from the new mode's own entry values. -/
theorem changeMode_streamInv (wf : s.cfg.wellFormed = true) (m : Mode) (ready : m ≠ .off → s.bufReady = true) :
    StreamInv (changeMode m s) := by
  cases m with
  | off =>
    rw [changeMode_off]
    exact
      { offset_le := Nat.zero_le _
        offset_tick := Nat.zero_mod _
        offset_cap := fun atCap => absurd atCap (cap_pos wf).ne
        clock_on := nofun
        fill := nofun
        ready := fun h => absurd rfl h
        at_rest := fun _ => ⟨rfl, rfl, rfl, rfl⟩
        lines_legal := rfl }
  | rx =>
    rw [changeMode_rx]
    have inside := rxOffset_lt_cap wf
    exact
      { offset_le := inside.le
        offset_tick := rxOffset_mod_tickBytes wf
        offset_cap := fun atCap => absurd atCap inside.ne
        clock_on := fun _ => ⟨nofun, rfl, inside⟩
        fill := nofun
        ready := fun _ => ready nofun
        at_rest := nofun
        lines_legal := rfl }
  | tx =>
    rw [changeMode_tx]
    exact
      { offset_le := (offset_toNat wf le_rfl).le
        offset_tick := txOffset_mod_tickBytes wf
        offset_cap := fun _ => ⟨rfl, rfl, rfl⟩
        clock_on := nofun
        fill := fun _ => ⟨rfl, rfl⟩
        ready := fun _ => ready nofun
        at_rest := nofun
        lines_legal := rfl }

theorem Scheduled.streamInv {h : Half} (sched : Scheduled h s t) (inv : StreamInv s) (on : s.mode ≠ .off) :
    StreamInv t := by
  cases sched with
  | rx _ _ eq | tx _ _ eq => subst eq; exact { inv with at_rest := fun off => absurd off on }

theorem Effect.streamInv {i : Instr} (h : Effect i s t) (wf : s.cfg.wellFormed = true) (inv : StreamInv s) :
    StreamInv t := by
  cases effect_side h with
  | fault f w eq | pass _ _ _ eq => subst eq; exact { inv with }
  | ready eq => subst eq; exact { inv with ready := fun _ => rfl }
  | lines p eq => subst eq; exact { inv with lines_legal := finalLines_legal p }
  | change m ready _ eq => subst eq; exact changeMode_streamInv wf m ready
  | registers side =>
    obtain ⟨_, _, _, _, _, _, -, rfl⟩ := side
    exact { inv with }
  | schedule _ on _ _ u sched eq => subst eq; exact { sched.streamInv inv on with }

/-- A tick moves OFFSET to the next multiple of TICK_BYTES, below CAP. -/
theorem tick_streamInv (wf : s.cfg.wellFormed = true) (inv : StreamInv s) (on : s.clkEn = true) (samples : List Byte)
    (h : Half) :
    StreamInv { tickData samples s.offset.toNat h s with offset := nextOffset s.cfg s.offset.toNat } := by
  obtain ⟨_, _, _, _, _, e, -⟩ := tickData_frame samples s.offset.toNat h s
  rw [e]
  have inside := nextOffset_lt_cap wf s.offset.toNat
  obtain ⟨streaming, nofill, -⟩ := inv.clock_on on
  exact
    { inv with
      offset_le := inside.le
      offset_tick := nextOffset_mod_tickBytes wf inv.offset_tick
      offset_cap := fun atCap => absurd atCap inside.ne
      clock_on := fun _ => ⟨streaming, nofill, inside⟩
      at_rest := fun off => absurd off streaming }

theorem completeDescriptor_streamInv (wf : s.cfg.wellFormed = true) (inv : StreamInv s) (d : Descriptor) :
    StreamInv (completeDescriptor d s) := by
  obtain ⟨-, -, pending, w0, w1, new, -, e⟩ | ⟨-, e⟩ := completeDescriptor_cases d s
  · obtain ⟨tx, -⟩ := inv.fill pending
    have streaming : s.mode ≠ .off := by rw [tx]; decide
    rw [e]
    exact
      { inv with
        offset_le := Nat.zero_le _
        offset_tick := Nat.zero_mod _
        offset_cap := fun atCap => absurd atCap (cap_pos wf).ne
        clock_on := fun _ => ⟨streaming, rfl, cap_pos wf⟩
        fill := nofun
        at_rest := fun off => absurd off streaming }
  · rw [e]
    exact { inv with }

theorem resetBlock_streamInv (wf : s.cfg.wellFormed = true) : StreamInv (resetBlock s) :=
  { offset_le := Nat.zero_le _
    offset_tick := Nat.zero_mod _
    offset_cap := fun atCap => absurd atCap (cap_pos wf).ne
    clock_on := nofun
    fill := nofun
    ready := fun h => absurd rfl h
    at_rest := fun _ => ⟨rfl, rfl, rfl, rfl⟩
    lines_legal := rfl }

theorem Move.streamInv {turn : Turn} (h : Move turn s t) (wf : s.cfg.wellFormed = true) (inv : StreamInv s)
    (step2 : Step2Inv s) : StreamInv t := by
  cases h with
  | stay eq | badWord _ _ _ _ _ eq | overflow _ eq | pass _ eq | push _ _ eq | pop eq => subst eq; exact { inv with }
  | command i w rest _ _ _ _ effect => exact effect.streamInv wf { inv with }
  | schedule second _ sched => exact sched.streamInv { inv with } (step2 second).1
  | tick samples on _ eq => subst eq; exact tick_streamInv wf inv on samples _
  | usbIn d rest _ eq => subst eq; exact completeDescriptor_streamInv (s := inDelivered d rest s) wf { inv with } d
  | usbOut given d rest _ eq =>
    subst eq
    exact completeDescriptor_streamInv (s := outDelivered given d rest s) wf { inv with } d
  | reset _ eq => subst eq; exact resetBlock_streamInv wf

/-- Settles O52: a scheduling pass is the only move that needs the premise on STEP2, to keep PHASE at rest in OFF. -/
theorem streamInvariantKept : Obligations.StreamInvariantKept := by
  intro s t inv step2 h
  obtain ⟨wf, move⟩ := step_move h
  exact move.streamInv wf { inv with } step2

end Sys2Proof.Machine
end

section
/-! The shape of the stores and queues (spec/10_state.md R60, R61, R65, R66, R70, R75, R78): each operation keeps the sizes, the
widths and the canonical form of storage, and so does every step. -/

namespace Sys2Proof.Machine

open Sys2Proof.Laws.ResponseOpcode (producesResponse)

variable {s t : State}

/-! ### The response hold guards every push to RSPQ (42 R261) -/

/-- The opcode alone decides both which command a word is and whether it produces a response. -/
theorem responseProducing_of_decode {w : Word} {i : Instr} (decoded : decode w = .instr i) :
    responseProducing w = producesResponse i := by
  rcases opcode_cases (opcodeOf w) with h | h | h | h | h | h | h | h | h | h | h | h | h | h | h | h <;>
    simp [decode, h, formatN_eq_instr, formatM_eq_instr, formatI_eq_instr, formatIV_eq_instr] at decoded <;>
    obtain ⟨-, rfl⟩ := decoded <;>
    simp [responseProducing, h, producesResponse]

theorem rspq_room_of_not_held {w : Word} {i : Instr} (held : heldBack w s = false) (decoded : decode w = .instr i)
    (produces : producesResponse i = true) : s.rspq.length < s.cfg.rspDepth := by
  rw [heldBack, responseProducing_of_decode decoded, produces] at held
  simpa [rspFull] using held

/-! ### The geometry of a write -/

/-- A tick's bytes end inside the buffer, for CAP and OFFSET are multiples of TICK_BYTES. -/
theorem add_tickBytes_le_cap {c : Config} (wf : c.wellFormed = true) {o : Nat} (aligned : o % c.tickBytes = 0)
    (inside : o < c.cap) : o + c.tickBytes ≤ c.cap := by
  obtain ⟨m, hm⟩ := Nat.dvd_of_mod_eq_zero (cap_mod_tickBytes wf)
  obtain ⟨k, rfl⟩ := Nat.dvd_of_mod_eq_zero aligned
  rw [hm] at inside ⊢
  calc c.tickBytes * k + c.tickBytes = c.tickBytes * (k + 1) := rfl
    _ ≤ c.tickBytes * m := Nat.mul_le_mul_left _ (lt_of_mul_lt_mul_left inside (Nat.zero_le _))

theorem halfBase_add_half_le_cap (c : Config) (h : Half) : halfBase c h + c.half ≤ c.cap := by
  have := Nat.mul_le_mul_right c.half (Nat.le_of_lt_succ h.isLt)
  simp only [halfBase, Config.half] at *
  omega

/-! ### The operations -/

/-- A write inside the buffer keeps the shape. -/
theorem ShapeInv.memWrite (inv : ShapeInv s) {a : Nat} {bytes : List Byte} (inside : a + bytes.length ≤ s.cfg.cap) :
    ShapeInv { s with buf := memWrite s.buf a bytes } :=
  { inv with
    buf_wf := memWrite_wf inv.buf_wf a bytes
    buf_range := memWrite_range inv.buf_range inside }

theorem ShapeInv.setCache (inv : ShapeInv s) (i : Nat) {v : RegVal} (bits : v.toNat < 2 ^ s.cfg.dataBits) :
    ShapeInv (setCache i v s) :=
  { inv with
    cache_length := by simpa using inv.cache_length
    cache_bits := fun u hu => by
      obtain hu | rfl := List.mem_or_eq_of_mem_set hu
      · exact inv.cache_bits u hu
      · exact bits }

theorem ShapeInv.setDirty (inv : ShapeInv s) (i : Nat) (b : Bool) : ShapeInv (setDirty i b s) :=
  { inv with dirty_length := by simpa using inv.dirty_length }

theorem chipreg_length_busWrite (i : Nat) (v : RegVal) : (busWrite i v s).chipreg.length = s.chipreg.length := by
  rw [busWrite_eq]
  dsimp only
  split
  · exact List.length_set
  · rfl

theorem ShapeInv.busWrite (inv : ShapeInv s) (i : Nat) (v : RegVal) : ShapeInv (busWrite i v s) := by
  have chips := (chipreg_length_busWrite i v).trans inv.chipreg_length
  rw [busWrite_eq] at chips ⊢
  exact { inv with chipreg_length := chips }

theorem ShapeInv.flushOne (inv : ShapeInv s) (i : Nat) : ShapeInv (flushOne s i) := by
  unfold Machine.flushOne
  split
  · exact (inv.busWrite i _).setDirty i false
  · exact inv

theorem ShapeInv.flush (l : List Nat) (inv : ShapeInv s) : ShapeInv (l.foldl Machine.flushOne s) := by
  induction l generalizing s with
  | nil => exact inv
  | cons i l ih => exact ih (inv.flushOne i)

theorem ShapeInv.respond (inv : ShapeInv s) (w : Word) (room : s.rspq.length < s.cfg.rspDepth) :
    ShapeInv (respond w s) :=
  { inv with rspq_length := by simpa using room }

theorem changeMode_shapeInv (inv : ShapeInv s) (m : Mode) (room : m = .tx → s.outq.length < s.cfg.usbqDepth) :
    ShapeInv (changeMode m s) := by
  cases m with
  | off => rw [changeMode_off]; exact { inv with }
  | rx => rw [changeMode_rx]; exact { inv with port_length := List.length_replicate }
  | tx => rw [changeMode_tx]; exact { inv with outq_length := by simpa using room rfl }

theorem Scheduled.shapeInv {h : Half} (sched : Scheduled h s t) (inv : ShapeInv s) : ShapeInv t := by
  cases sched with
  | rx _ room eq => subst eq; exact { inv with inq_length := by simpa using room }
  | tx _ room eq => subst eq; exact { inv with outq_length := by simpa using room }

/-- Only a command that produces a response needs room in RSPQ. -/
theorem Effect.shapeInv {i : Instr} (h : Effect i s t) (inv : ShapeInv s)
    (room : producesResponse i = true → s.rspq.length < s.cfg.rspDepth) : ShapeInv t := by
  cases h with
  | fault _ eq | ready _ eq | lines _ _ eq | regKeep _ _ _ eq | pass _ _ _ _ eq => subst eq; exact { inv with }
  | change _ m _ _ _ roomOut eq => subst eq; exact changeMode_shapeInv inv m roomOut
  | respond w hi eq =>
    subst eq
    exact inv.respond w (room (by rcases hi with rfl | rfl | rfl | rfl <;> rfl))
  | regWrite idx val _ _ eq =>
    subst eq
    exact ((inv.busWrite _ _).setCache _ (by rw [busWrite_cfg]; exact maskValue_lt s.cfg val)).setDirty _ _
  | regRead idx w hi _ eq =>
    subst eq hi
    exact ShapeInv.respond (s := busRead idx.toNat s) { inv with } w (room rfl)
  | regSet idx val _ _ eq => subst eq; exact (inv.setCache _ (maskValue_lt s.cfg val)).setDirty _ _
  | flush _ eq => subst eq; exact inv.flush _
  | schedule _ _ _ _ _ u sched eq => subst eq; exact { sched.shapeInv inv with }

theorem tick_shapeInv (wf : s.cfg.wellFormed = true) (inv : ShapeInv s) (aligned : s.offset.toNat % s.cfg.tickBytes = 0)
    (inside : s.offset.toNat < s.cfg.cap) (samples : List Byte) (h : Half) :
    ShapeInv { tickData samples s.offset.toNat h s with offset := nextOffset s.cfg s.offset.toNat } := by
  obtain ⟨buf, inq, _, _, _, e, hbuf, hinq, -⟩ := tickData_frame samples s.offset.toNat h s
  have stored : ShapeInv { s with buf := buf } := by
    obtain rfl | ⟨bytes, len, rfl⟩ := hbuf
    · exact inv
    · exact inv.memWrite (len ▸ add_tickBytes_le_cap wf aligned inside)
  have inq_length : inq.length ≤ s.cfg.usbqDepth := by
    obtain rfl | rfl := hinq
    · exact inv.inq_length
    · simpa [taintHalf] using inv.inq_length
  rw [e]
  exact { stored with inq_length := inq_length }

theorem completeDescriptor_shapeInv (inv : ShapeInv s) (d : Descriptor) : ShapeInv (completeDescriptor d s) := by
  obtain ⟨-, -, -, w0, w1, new, -, e⟩ | ⟨-, e⟩ := completeDescriptor_cases d s
  · rw [e]
    exact { inv with port_length := by simpa using inv.port_length }
  · rw [e]
    exact { inv with }

theorem inDelivered_shapeInv (inv : ShapeInv s) {d : Descriptor} {rest : List Descriptor} (head : s.inq = d :: rest) :
    ShapeInv (inDelivered d rest s) :=
  { inv with inq_length := (head ▸ Nat.le_succ rest.length : rest.length ≤ s.inq.length).trans inv.inq_length }

theorem outDelivered_shapeInv (inv : ShapeInv s) (given : List Byte) {d : Descriptor} {rest : List Descriptor}
    (head : s.outq = d :: rest) : ShapeInv (outDelivered given d rest s) :=
  { inv.memWrite (a := halfBase s.cfg d.half) (bytes := suppliedBytes s.draws s.cfg.half given)
      (by rw [suppliedBytes_length]; exact halfBase_add_half_le_cap s.cfg d.half) with
    outq_length := (head ▸ Nat.le_succ rest.length : rest.length ≤ s.outq.length).trans inv.outq_length }

theorem taken_shapeInv (inv : ShapeInv s) {w : Word} {rest : List Word} (head : s.cmdq = w :: rest) :
    ShapeInv (taken w rest s) :=
  { inv with cmdq_length := (head ▸ Nat.le_succ rest.length : rest.length ≤ s.cmdq.length).trans inv.cmdq_length }

/-- A reset leaves the chip's registers as they were, and with them their number. -/
theorem resetBlock_shapeInv (wf : s.cfg.wellFormed = true) (chips : s.chipreg.length = s.cfg.nRegs) :
    ShapeInv (resetBlock s) :=
  { cache_length := (wf_defaults wf).1
    cache_bits := (wf_defaults wf).2
    dirty_length := List.length_replicate
    chipreg_length := chips
    port_length := List.length_replicate
    buf_wf := List.Pairwise.nil
    buf_range := nofun
    inq_length := Nat.zero_le _
    outq_length := Nat.zero_le _
    cmdq_length := Nat.zero_le _
    rspq_length := Nat.zero_le _ }

theorem Move.shapeInv {turn : Turn} (h : Move turn s t) (wf : s.cfg.wellFormed = true) (stream : StreamInv s)
    (inv : ShapeInv s) : ShapeInv t := by
  cases h with
  | stay eq | overflow _ eq | pass _ eq => subst eq; exact { inv with }
  | badWord f w rest _ head eq => subst eq; exact { taken_shapeInv inv head with }
  | command i w rest _ head held decoded effect =>
    exact effect.shapeInv (taken_shapeInv inv head) (rspq_room_of_not_held held decoded)
  | schedule _ _ sched => exact sched.shapeInv { inv with }
  | tick samples _ inside eq => subst eq; exact tick_shapeInv wf inv stream.offset_tick inside samples _
  | usbIn d rest head eq => subst eq; exact completeDescriptor_shapeInv (inDelivered_shapeInv inv head) d
  | usbOut given d rest head eq => subst eq; exact completeDescriptor_shapeInv (outDelivered_shapeInv inv given head) d
  | push w room eq => subst eq; exact { inv with cmdq_length := by simpa using room }
  | pop eq =>
    subst eq
    exact { inv with rspq_length := (List.tail_sublist s.rspq).length_le.trans inv.rspq_length }
  | reset _ eq => subst eq; exact resetBlock_shapeInv wf inv.chipreg_length

/-- Settles O53: the response hold keeps RSPQ within its depth, the queue checks keep the descriptor queues within theirs,
and the stream invariant keeps a tick's bytes inside the buffer. -/
theorem shapeInvariantKept : Obligations.ShapeInvariantKept := by
  intro s t stream inv h
  obtain ⟨wf, move⟩ := step_move h
  exact move.shapeInv wf { stream with } { inv with }

end Sys2Proof.Machine
end

section
/-! The register file and the ECHO chip (spec/10_state.md R62): only REG_WRITE, REG_SET, REG_FLUSH and reset touch them, a flag
is cleared only with its register's frame, and a clean register agrees with the chip. -/

namespace Sys2Proof.Machine

variable {s t : State}

/-! ### The moves that touch the register file -/

/-- The register file, the chip's registers and the build are the same. -/
structure SameRegisters (s t : State) : Prop where
  cfg : t.cfg = s.cfg
  cache : t.cache = s.cache
  dirty : t.dirty = s.dirty
  chipreg : t.chipreg = s.chipreg

theorem SameRegisters.cacheAt (h : SameRegisters s t) (i : Nat) : cacheAt t i = cacheAt s i := by
  rw [Machine.cacheAt, h.cache, Machine.cacheAt]

theorem SameRegisters.dirtyAt (h : SameRegisters s t) (i : Nat) : dirtyAt t i = dirtyAt s i := by
  rw [Machine.dirtyAt, h.dirty, Machine.dirtyAt]

theorem SameRegisters.chipregAt (h : SameRegisters s t) (i : Nat) : chipregAt t i = chipregAt s i := by
  rw [Machine.chipregAt, h.chipreg, Machine.chipregAt]

theorem changeMode_registers (m : Mode) : SameRegisters s (changeMode m s) := by
  cases m with
  | off => rw [changeMode_off]; exact ⟨rfl, rfl, rfl, rfl⟩
  | rx => rw [changeMode_rx]; exact ⟨rfl, rfl, rfl, rfl⟩
  | tx => rw [changeMode_tx]; exact ⟨rfl, rfl, rfl, rfl⟩

theorem Scheduled.registers {h : Half} (sched : Scheduled h s t) : SameRegisters s t := by
  cases sched with
  | rx _ _ eq | tx _ _ eq => subst eq; exact ⟨rfl, rfl, rfl, rfl⟩

theorem completeDescriptor_registers (d : Descriptor) : SameRegisters s (completeDescriptor d s) := by
  obtain ⟨-, -, -, w0, w1, new, -, e⟩ | ⟨-, e⟩ := completeDescriptor_cases d s <;>
    rw [e] <;> exact ⟨rfl, rfl, rfl, rfl⟩

/-- A command as the register file sees it. -/
inductive RegisterEffect (s t : State) : Prop where
  | same (h : SameRegisters s t)
  | write (idx : BitVec 8) (val : BitVec 16) (lt : idx.toNat < s.cfg.nRegs)
      (eq : t = setDirty idx.toNat false
        (setCache idx.toNat (maskValue s.cfg val) (busWrite idx.toNat (maskValue s.cfg val) s)))
  | set (idx : BitVec 8) (val : BitVec 16) (lt : idx.toNat < s.cfg.nRegs)
      (eq : t = setDirty idx.toNat true (setCache idx.toNat (maskValue s.cfg val) s))
  | flush (eq : t = (List.range s.cfg.nRegs).foldl flushOne s)

theorem Effect.registers {i : Instr} (h : Effect i s t) : RegisterEffect s t := by
  cases h with
  | fault _ eq | ready _ eq | lines _ _ eq | respond _ _ eq | regRead _ _ _ _ eq | regKeep _ _ _ eq | pass _ _ _ _ eq =>
    subst eq; exact .same ⟨rfl, rfl, rfl, rfl⟩
  | change _ m _ _ _ _ eq => subst eq; exact .same (changeMode_registers m)
  | regWrite idx val _ lt eq => exact .write idx val lt eq
  | regSet idx val _ lt eq => exact .set idx val lt eq
  | flush _ eq => exact .flush eq
  | schedule _ _ _ _ _ u sched eq => subst eq; exact .same { sched.registers with }

/-- Only a command or a reset touches the register file. -/
theorem Move.registers {turn : Turn} (h : Move turn s t) :
    SameRegisters s t ∨ (∃ w rest, s.cmdq = w :: rest ∧ RegisterEffect (taken w rest s) t) ∨ t = resetBlock s := by
  cases h with
  | stay eq | badWord _ _ _ _ _ eq | overflow _ eq | pass _ eq | push _ _ eq | pop eq =>
    subst eq; exact .inl ⟨rfl, rfl, rfl, rfl⟩
  | command i w rest _ head _ _ effect => exact .inr (.inl ⟨w, rest, head, effect.registers⟩)
  | schedule _ _ sched => exact .inl { sched.registers with }
  | tick samples _ _ eq =>
    obtain ⟨_, _, _, _, _, e, -⟩ := tickData_frame samples s.offset.toNat (halfOf s.cfg s.offset.toNat) s
    rw [e] at eq
    subst eq
    exact .inl ⟨rfl, rfl, rfl, rfl⟩
  | usbIn d rest _ eq => subst eq; exact .inl { completeDescriptor_registers (s := inDelivered d rest s) d with }
  | usbOut given d rest _ eq =>
    subst eq; exact .inl { completeDescriptor_registers (s := outDelivered given d rest s) d with }
  | reset _ eq => exact .inr (.inr eq)

/-! ### What the register file holds after a command -/

/-- The three stores reach every legal index. -/
theorem regWrite_at (shape : ShapeInv s) {i : Nat} (lt : i < s.cfg.nRegs) (v : RegVal) (j : Nat)
    (written : t = setDirty i false (setCache i v (busWrite i v s))) :
    cacheAt t j = (if j = i then v else cacheAt s j) ∧ dirtyAt t j = (if j = i then false else dirtyAt s j) ∧
      chipregAt t j =
        if j = i ∧ s.cfg.chipResponse = .echo then some (maskValue s.cfg v) else chipregAt s j := by
  subst written
  refine ⟨?_, ?_, chipregAt_busWrite s i j v (shape.chipreg_length ▸ lt)⟩
  · exact (cacheAt_setCache (busWrite i v s) i j v (by rwa [busWrite_cache, shape.cache_length])).trans
      (by simp [cacheAt])
  · exact (dirtyAt_clear _ i j).trans (by simp [dirtyAt])

theorem regSet_at (shape : ShapeInv s) {i : Nat} (lt : i < s.cfg.nRegs) (v : RegVal) (j : Nat)
    (stored : t = setDirty i true (setCache i v s)) :
    cacheAt t j = (if j = i then v else cacheAt s j) ∧ dirtyAt t j = (if j = i then true else dirtyAt s j) := by
  subst stored
  exact ⟨cacheAt_setCache s i j v (shape.cache_length ▸ lt),
    dirtyAt_setDirty (setCache i v s) i j true (by rwa [setCache_dirty, shape.dirty_length])⟩

theorem dirtyAt_resetBlock {i : Nat} (lt : i < s.cfg.nRegs) : dirtyAt (resetBlock s) i = true := by
  show (List.replicate s.cfg.nRegs true).getD i false = true
  rw [List.getD_eq_getElem?_getD, List.getElem?_replicate_of_lt lt, Option.getD_some]

/-- Masking a cached value leaves it as it is. -/
theorem maskValue_cacheAt (shape : ShapeInv s) {i : Nat} (lt : i < s.cfg.nRegs) :
    maskValue s.cfg (cacheAt s i) = cacheAt s i := by
  have inCache : i < s.cache.length := shape.cache_length ▸ lt
  have bits : (cacheAt s i).toNat < 2 ^ s.cfg.dataBits := by
    rw [cacheAt, List.getD_eq_getElem _ _ inCache]
    exact shape.cache_bits _ (List.getElem_mem inCache)
  apply BitVec.eq_of_toNat_eq
  rw [maskValue_toNat, Nat.mod_eq_of_lt bits]

/-! ### Agreement with the chip -/

theorem SameRegisters.chipAgrees (same : SameRegisters s t) (agrees : ChipAgrees s) : ChipAgrees t := by
  intro echo i lt clean
  rw [same.cfg] at echo lt
  rw [same.dirtyAt] at clean
  rw [same.chipregAt, same.cacheAt]
  exact agrees echo i lt clean

theorem regWrite_chipAgrees (shape : ShapeInv s) (agrees : ChipAgrees s) {i : Nat} (lt : i < s.cfg.nRegs)
    (val : BitVec 16) :
    ChipAgrees (setDirty i false (setCache i (maskValue s.cfg val) (busWrite i (maskValue s.cfg val) s))) := by
  intro echo j ltj clean
  obtain ⟨cached, dirty, stored⟩ := regWrite_at shape lt (maskValue s.cfg val) j rfl
  simp only [setDirty_cfg, setCache_cfg, busWrite_cfg] at echo ltj
  rw [dirty] at clean
  rw [cached, stored]
  by_cases own : j = i
  · simp [own, echo, maskValue_mask]
  · simp only [own, false_and, if_false] at clean ⊢
    exact agrees echo j ltj clean

theorem regSet_chipAgrees (shape : ShapeInv s) (agrees : ChipAgrees s) {i : Nat} (lt : i < s.cfg.nRegs) (v : RegVal) :
    ChipAgrees (setDirty i true (setCache i v s)) := by
  intro echo j ltj clean
  obtain ⟨cached, dirty⟩ := regSet_at shape lt v j rfl
  rw [dirty] at clean
  rw [cached]
  by_cases own : j = i
  · simp [own] at clean
  · simp only [own, if_false] at clean ⊢
    exact agrees echo j ltj clean

theorem flushOne_chipAgrees (shape : ShapeInv s) (agrees : ChipAgrees s) (i : Nat) : ChipAgrees (flushOne s i) := by
  intro echo j lt clean
  rw [flushOne_cfg] at echo lt
  rw [dirtyAt_flushOne] at clean
  rw [chipregAt_flushOne s i j (shape.chipreg_length ▸ lt), cacheAt_flushOne]
  split
  next flushed =>
    obtain ⟨rfl, -, -⟩ := flushed
    rw [maskValue_cacheAt shape lt]
  next kept =>
    refine agrees echo j lt ?_
    by_cases own : j = i
    · subst own
      simpa [echo] using kept
    · simpa [own] using clean

theorem flush_chipAgrees (l : List Nat) (shape : ShapeInv s) (agrees : ChipAgrees s) :
    ChipAgrees (l.foldl flushOne s) := by
  induction l generalizing s with
  | nil => exact agrees
  | cons i l ih => exact ih (shape.flushOne i) (flushOne_chipAgrees shape agrees i)

theorem RegisterEffect.chipAgrees (h : RegisterEffect s t) (shape : ShapeInv s) (agrees : ChipAgrees s) :
    ChipAgrees t := by
  cases h with
  | same h => exact h.chipAgrees agrees
  | write idx val lt eq => subst eq; exact regWrite_chipAgrees shape agrees lt val
  | set idx val lt eq => subst eq; exact regSet_chipAgrees shape agrees lt _
  | flush eq => subst eq; exact flush_chipAgrees _ shape agrees

/-- After a reset no register is clean. -/
theorem resetBlock_chipAgrees : ChipAgrees (resetBlock s) := by
  intro _ i lt clean
  exact absurd ((dirtyAt_resetBlock (s := s) lt).symm.trans clean) nofun

theorem Move.chipAgrees {turn : Turn} (h : Move turn s t) (shape : ShapeInv s) (agrees : ChipAgrees s) :
    ChipAgrees t := by
  obtain same | ⟨w, rest, head, effect⟩ | rfl := h.registers
  · exact same.chipAgrees agrees
  · exact effect.chipAgrees (taken_shapeInv shape head) agrees
  · exact resetBlock_chipAgrees

/-- Settles O55: a register becomes clean only where the chip stores what the cache holds, by REG_WRITE or a flush's turn. -/
theorem chipAgreementKept : Obligations.ChipAgreementKept := by
  intro s t shape agrees h
  obtain ⟨-, move⟩ := step_move h
  exact move.chipAgrees { shape with } agrees

/-! ### A flag is cleared only with its frame -/

/-- The history of `t` continues that of `s`, and a write frame that carries CACHE[i] for index i is among the new events. -/
def FrameRecorded (i : Nat) (s t : State) : Prop :=
  ∃ new, t.events = s.events ++ new ∧ Event.busFrame (wframe s.cfg i (cacheAt t i)) 0 ∈ new

/-- The flush's turn at a dirty index records its frame, and the later turns leave the history and the cache. -/
theorem flush_frameRecorded {i : Nat} (l : List Nat) (dirty : dirtyAt s i = true)
    (clean : dirtyAt (l.foldl flushOne s) i = false) : FrameRecorded i s (l.foldl flushOne s) := by
  induction l generalizing s with
  | nil => rw [List.foldl_nil, dirty] at clean; cases clean
  | cons k l ih =>
    rw [List.foldl_cons] at clean ⊢
    by_cases own : i = k
    · subst own
      obtain ⟨_, _, new, e, -⟩ := flush_frame l (flushOne s i)
      rw [e]
      refine ⟨.busFrame (wframe s.cfg i (cacheAt s i)) 0 :: new, ?_, ?_⟩
      · simp [flushOne_events, dirty]
      · simp [cacheAt]
    · have still : dirtyAt (flushOne s k) i = true := by rw [dirtyAt_flushOne, if_neg own, dirty]
      obtain ⟨new, events, recorded⟩ := ih still clean
      rw [flushOne_cfg] at recorded
      rw [flushOne_events, List.append_assoc] at events
      exact ⟨_, events, List.mem_append_right _ recorded⟩

theorem RegisterEffect.frameRecorded (h : RegisterEffect s t) (shape : ShapeInv s) {i : Nat}
    (dirty : dirtyAt s i = true) (clean : dirtyAt t i = false) : FrameRecorded i s t := by
  cases h with
  | same h => rw [h.dirtyAt, dirty] at clean; cases clean
  | write idx val lt eq =>
    obtain ⟨cached, flag, -⟩ := regWrite_at shape lt (maskValue s.cfg val) i eq
    by_cases own : i = idx.toNat
    · subst own
      rw [if_pos rfl] at cached
      exact ⟨[.busFrame (wframe s.cfg idx.toNat (maskValue s.cfg val)) 0], by rw [eq, regWrite_eq], by simp [cached]⟩
    · rw [flag, if_neg own, dirty] at clean; cases clean
  | set idx val lt eq =>
    have flag := (regSet_at shape lt (maskValue s.cfg val) i eq).2
    rw [flag] at clean
    split at clean
    · cases clean
    · rw [dirty] at clean; cases clean
  | flush eq => subst eq; exact flush_frameRecorded _ dirty clean

/-- Settles O18: of the moves that touch the flags, a reset sets them all, and a command that clears one records its frame. -/
theorem dirtyClearedOnlyWithItsFrame : Obligations.DirtyClearedOnlyWithItsFrame := by
  intro s t i h shape lt dirty clean
  obtain ⟨-, move⟩ := step_move h
  have atTurn : ShapeInv (dropTurn s) := { shape with }
  obtain same | ⟨w, rest, head, effect⟩ | rfl := move.registers
  · rw [same.dirtyAt] at clean
    exact absurd (dirty.symm.trans clean) nofun
  · obtain ⟨new, events, recorded⟩ := effect.frameRecorded (taken_shapeInv atTurn head) dirty clean
    exact ⟨.cmd w :: new, by rw [events]; exact List.append_assoc .., List.mem_cons_of_mem _ recorded⟩
  · exact absurd ((dirtyAt_resetBlock (s := dropTurn s) lt).symm.trans clean) nofun

end Sys2Proof.Machine
end

section
/-! The descriptor queues (spec/42_stream.md R303, spec/10_state.md R50): each operation keeps them, and so does every step. -/

namespace Sys2Proof.Machine

variable {s t : State}

/-- Every descriptor in OUTQ is stale once the epoch has moved on. -/
theorem QueueInv.filter_nil (inv : QueueInv s) (epoch : t.epoch = s.epoch + 1) : s.outq.filter (currentFill t) = [] := by
  rw [List.filter_eq_nil_iff]
  intro d hd
  have := (inv.out_dir d hd).2
  simp only [currentFill, epoch, Bool.and_eq_true, beq_iff_eq]
  omega

theorem changeMode_queueInv (inv : QueueInv s) (m : Mode) : QueueInv (changeMode m s) := by
  have inn : ∀ d ∈ s.inq, d.dir = .inn ∧ d.kind = .stream ∧ d.epoch ≤ s.epoch + 1 := fun d hd =>
    ⟨(inv.in_stream d hd).1, (inv.in_stream d hd).2.1, Nat.le_succ_of_le (inv.in_stream d hd).2.2⟩
  have out : ∀ d ∈ s.outq, d.dir = .out ∧ d.epoch ≤ s.epoch + 1 := fun d hd =>
    ⟨(inv.out_dir d hd).1, Nat.le_succ_of_le (inv.out_dir d hd).2⟩
  have stale := inv.filter_nil (t := changeMode m s)
  cases m with
  | off =>
    rw [changeMode_off] at stale ⊢
    exact ⟨inn, out, inv.fill_half, congrArg List.length (stale rfl)⟩
  | rx =>
    rw [changeMode_rx] at stale ⊢
    exact ⟨inn, out, inv.fill_half, congrArg List.length (stale rfl)⟩
  | tx =>
    rw [changeMode_tx] at stale ⊢
    refine ⟨inn, ?_, ?_, ?_⟩
    · exact List.forall_mem_append.mpr ⟨out, by simp⟩
    · exact List.forall_mem_append.mpr ⟨inv.fill_half, by simp⟩
    · rw [List.filter_append, stale rfl]
      simp [currentFill]

theorem Scheduled.queueInv {h : Half} (sched : Scheduled h s t) (inv : QueueInv s) : QueueInv t := by
  cases sched with
  | rx _ _ eq =>
    subst eq
    exact { inv with in_stream := List.forall_mem_append.mpr ⟨inv.in_stream, by simp⟩ }
  | tx _ _ eq =>
    subst eq
    exact
      { inv with
        out_dir := List.forall_mem_append.mpr ⟨inv.out_dir, by simp⟩
        fill_half := List.forall_mem_append.mpr ⟨inv.fill_half, by simp⟩
        fill_count := by
          rw [List.filter_append, List.length_append]
          exact inv.fill_count }

theorem Effect.queueInv {i : Instr} (h : Effect i s t) (inv : QueueInv s) : QueueInv t := by
  cases effect_side h with
  | fault _ _ eq | ready eq | lines _ eq | pass _ _ _ eq => subst eq; exact { inv with }
  | change m _ _ eq => subst eq; exact changeMode_queueInv inv m
  | registers side =>
    obtain ⟨_, _, _, _, _, _, -, rfl⟩ := side
    exact { inv with }
  | schedule _ _ _ _ u sched eq => subst eq; exact { sched.queueInv inv with }

/-- Tainting writes no field that the queues' invariant reads. -/
theorem taintHalf_in_stream (inv : QueueInv s) (h : Half) :
    ∀ d ∈ taintHalf s.inq h, d.dir = .inn ∧ d.kind = .stream ∧ d.epoch ≤ s.epoch := by
  rw [taintHalf, List.forall_mem_map]
  intro d hd
  split
  · exact inv.in_stream d hd
  · exact inv.in_stream d hd

theorem tick_queueInv (inv : QueueInv s) (samples : List Byte) (h : Half) :
    QueueInv { tickData samples s.offset.toNat h s with offset := nextOffset s.cfg s.offset.toNat } := by
  obtain ⟨_, inq, _, _, _, e, -, hinq, -⟩ := tickData_frame samples s.offset.toNat h s
  rw [e]
  obtain rfl | rfl := hinq
  · exact { inv with }
  · exact { inv with in_stream := taintHalf_in_stream inv h }

/-- A completion of INQ has no effect on scheduler state: the queue holds no FILL. -/
theorem usbIn_queueInv (inv : QueueInv s) {d : Descriptor} {rest : List Descriptor} (head : s.inq = d :: rest) :
    QueueInv (completeDescriptor d (inDelivered d rest s)) := by
  have inn := inv.in_stream
  rw [head, List.forall_mem_cons] at inn
  obtain ⟨⟨-, stream, -⟩, inRest⟩ := inn
  obtain ⟨-, fill, -⟩ | ⟨-, e⟩ := completeDescriptor_cases d (inDelivered d rest s)
  · exact absurd (stream.symm.trans fill) nofun
  · rw [e]
    exact { inv with in_stream := inRest }

/-- The current FILL leaves OUTQ with the completion that ends the wait for it, and with no other. -/
theorem usbOut_queueInv (inv : QueueInv s) (given : List Byte) {d : Descriptor} {rest : List Descriptor}
    (head : s.outq = d :: rest) : QueueInv (completeDescriptor d (outDelivered given d rest s)) := by
  obtain ⟨inn, out, half, count⟩ := inv
  rw [head] at out half count
  have outRest := (List.forall_mem_cons.mp out).2
  have halfRest := (List.forall_mem_cons.mp half).2
  obtain ⟨epoch, kind, pending, w0, w1, new, -, e⟩ | ⟨idle, e⟩ := completeDescriptor_cases d (outDelivered given d rest s)
  · have current : currentFill s d = true := by simp [currentFill, kind, epoch]
    have pending' : s.fillPending = true := pending
    rw [List.filter_cons_of_pos current, pending'] at count
    rw [e]
    exact ⟨inn, outRest, halfRest, Nat.succ.inj count⟩
  · have restCount : (rest.filter (currentFill s)).length = if s.fillPending then 1 else 0 := by
      cases current : currentFill s d with
      | false => rwa [List.filter_cons_of_neg (by simp [current])] at count
      | true =>
        have nofill : s.fillPending = false := by
          simp only [currentFill, Bool.and_eq_true, beq_iff_eq] at current
          simpa [completionActs, current] using idle
        simp [List.filter_cons_of_pos current, nofill] at count
    rw [e]
    exact ⟨inn, outRest, halfRest, restCount⟩

theorem resetBlock_queueInv : QueueInv (resetBlock s) := ⟨nofun, nofun, nofun, rfl⟩

theorem Move.queueInv {turn : Turn} (h : Move turn s t) (inv : QueueInv s) : QueueInv t := by
  cases h with
  | stay eq | badWord _ _ _ _ _ eq | overflow _ eq | pass _ eq | push _ _ eq | pop eq => subst eq; exact { inv with }
  | command i w rest _ _ _ _ effect => exact effect.queueInv { inv with }
  | schedule _ _ sched => exact sched.queueInv { inv with }
  | tick samples _ _ eq => subst eq; exact tick_queueInv inv samples _
  | usbIn d rest head eq => subst eq; exact usbIn_queueInv inv head
  | usbOut given d rest head eq => subst eq; exact usbOut_queueInv inv given head
  | reset _ eq => subst eq; exact resetBlock_queueInv

end Sys2Proof.Machine
end

section
/-! The Sequencer's control state (spec/60_exceptions.md R320, R326; spec/42_stream.md R281): FAULT_CODE is nonzero exactly in
HALTED, and a scheduling pass is under way only while streaming. -/

namespace Sys2Proof.Machine

variable {s t : State}

theorem raiseFault_faultInv (f : FaultCode) (w : Word) (s : State) : FaultInv (raiseFault f w s) :=
  ⟨⟨fun _ => faultNumber_ne_zero f, fun _ => rfl⟩, faultNumber_le f⟩

/-- A Sequencer that goes on with another command or step has no fault to record. -/
theorem FaultInv.of_running (inv : FaultInv s) (before : s.seq ≠ .halted) (after : t.seq ≠ .halted)
    (code : t.faultCode = s.faultCode) : FaultInv t := by
  obtain ⟨halted, bound⟩ := inv
  rw [FaultInv, code]
  exact ⟨⟨fun h => absurd h after, fun h => absurd (halted.mpr h) before⟩, bound⟩

theorem changeMode_control (m : Mode) :
    (changeMode m s).seq = s.seq ∧ (changeMode m s).faultCode = s.faultCode := by
  cases m with
  | off => rw [changeMode_off]; exact ⟨rfl, rfl⟩
  | rx => rw [changeMode_rx]; exact ⟨rfl, rfl⟩
  | tx => rw [changeMode_tx]; exact ⟨rfl, rfl⟩

/-- The fields the two control invariants read are the same. -/
structure SameControl (s t : State) : Prop where
  seq : t.seq = s.seq
  faultCode : t.faultCode = s.faultCode
  mode : t.mode = s.mode
  fillPending : t.fillPending = s.fillPending
  bufReady : t.bufReady = s.bufReady

theorem Scheduled.control {h : Half} (sched : Scheduled h s t) : SameControl s t := by
  cases sched with
  | rx _ _ eq | tx _ _ eq => subst eq; exact ⟨rfl, rfl, rfl, rfl, rfl⟩

theorem tick_control (samples : List Byte) (o : Nat) (h : Half) (offset : BitVec 20) :
    SameControl s { tickData samples o h s with offset := offset } := by
  obtain ⟨_, _, _, _, _, e, -⟩ := tickData_frame samples o h s
  rw [e]
  exact ⟨rfl, rfl, rfl, rfl, rfl⟩

theorem Effect.faultInv {i : Instr} (h : Effect i s t) (inv : FaultInv s) (idle : s.seq = .idle) : FaultInv t := by
  have before : s.seq ≠ .halted := by rw [idle]; exact nofun
  cases effect_side h with
  | fault f w eq => subst eq; exact raiseFault_faultInv f w s
  | ready eq | lines _ eq => subst eq; exact inv
  | change m _ _ eq =>
    subst eq
    obtain ⟨seq, code⟩ := changeMode_control (s := s) m
    exact inv.of_running before (seq ▸ before) code
  | registers side =>
    obtain ⟨_, _, _, _, _, _, -, rfl⟩ := side
    exact inv
  | schedule _ _ _ _ u sched eq => subst eq; exact inv.of_running before nofun sched.control.faultCode
  | pass _ _ _ eq => subst eq; exact inv.of_running before nofun rfl

theorem completeDescriptor_faultInv (inv : FaultInv s) (d : Descriptor) : FaultInv (completeDescriptor d s) := by
  obtain ⟨-, -, -, w0, w1, new, -, e⟩ | ⟨-, e⟩ := completeDescriptor_cases d s
  · rw [e]; exact inv
  · rw [e]; exact inv

theorem resetBlock_faultInv : FaultInv (resetBlock s) := ⟨⟨nofun, fun h => absurd rfl h⟩, Nat.zero_le _⟩

theorem Move.faultInv {turn : Turn} (h : Move turn s t) (inv : FaultInv s) : FaultInv t := by
  cases h with
  | stay eq | push _ _ eq | pop eq => subst eq; exact inv
  | badWord f w rest _ _ eq => subst eq; exact raiseFault_faultInv f w _
  | command i w rest idle _ _ _ effect => exact effect.faultInv inv idle
  | overflow _ eq => subst eq; exact raiseFault_faultInv ..
  | schedule second _ sched =>
    exact inv.of_running (by rw [second]; exact nofun) (by rw [sched.control.seq]; exact nofun) sched.control.faultCode
  | pass second eq => subst eq; exact inv.of_running (by rw [second]; exact nofun) nofun rfl
  | tick samples _ _ eq =>
    subst eq
    have same := tick_control (s := s) samples s.offset.toNat (halfOf s.cfg s.offset.toNat)
      (nextOffset s.cfg s.offset.toNat)
    rw [FaultInv, same.seq, same.faultCode]
    exact inv
  | usbIn d rest _ eq => subst eq; exact completeDescriptor_faultInv (s := inDelivered d rest s) inv d
  | usbOut given d rest _ eq => subst eq; exact completeDescriptor_faultInv (s := outDelivered given d rest s) inv d
  | reset _ eq => subst eq; exact resetBlock_faultInv

theorem Step2Inv.of_idle (idle : t.seq = .idle) : Step2Inv t := fun second => absurd (idle.symm.trans second) nofun

theorem SameControl.step2Inv (same : SameControl s t) (inv : Step2Inv s) : Step2Inv t := by
  rw [Step2Inv, same.seq, same.mode, same.fillPending, same.bufReady]
  exact inv

/-- A command enters STEP2 only as SCHED_STEP does, past its checks. -/
theorem Effect.step2Inv {i : Instr} (h : Effect i s t) (idle : s.seq = .idle) : Step2Inv t := by
  cases effect_side h with
  | fault _ _ eq => subst eq; exact nofun
  | ready eq | lines _ eq => subst eq; exact .of_idle idle
  | change m _ _ eq => subst eq; exact .of_idle ((changeMode_control m).1.trans idle)
  | registers side =>
    obtain ⟨_, _, _, _, _, _, -, rfl⟩ := side
    exact .of_idle idle
  | schedule ready on nofill _ u sched eq =>
    subst eq
    have same := sched.control
    exact fun _ => ⟨same.mode ▸ on, same.fillPending.trans nofill, same.bufReady.trans ready⟩
  | pass ready on nofill eq => subst eq; exact fun _ => ⟨on, nofill, ready⟩

theorem completeDescriptor_step2Inv (inv : Step2Inv s) (d : Descriptor) : Step2Inv (completeDescriptor d s) := by
  obtain ⟨-, -, -, w0, w1, new, -, e⟩ | ⟨-, e⟩ := completeDescriptor_cases d s
  · rw [e]
    exact fun second => ⟨(inv second).1, rfl, (inv second).2.2⟩
  · rw [e]; exact inv

theorem Move.step2Inv {turn : Turn} (h : Move turn s t) (inv : Step2Inv s) : Step2Inv t := by
  cases h with
  | stay eq | push _ _ eq | pop eq => subst eq; exact inv
  | badWord _ _ _ _ _ eq | overflow _ eq => subst eq; exact nofun
  | command i w rest idle _ _ _ effect => exact effect.step2Inv idle
  | schedule _ _ sched => exact .of_idle sched.control.seq
  | pass _ eq => subst eq; exact .of_idle rfl
  | tick samples _ _ eq => subst eq; exact (tick_control ..).step2Inv inv
  | usbIn d rest _ eq => subst eq; exact completeDescriptor_step2Inv (s := inDelivered d rest s) inv d
  | usbOut given d rest _ eq => subst eq; exact completeDescriptor_step2Inv (s := outDelivered given d rest s) inv d
  | reset _ eq => subst eq; exact .of_idle rfl

end Sys2Proof.Machine
end

section
/-! Alternation (spec/42_stream.md R315): a step schedules nothing, or starts a new epoch, or schedules the half that PHASE does
not name. -/

namespace Sys2Proof.Machine

variable {s t : State}

/-- A list that alternates goes on alternating with an element that differs from its last. -/
theorem alternates_append {l : List Half} {h : Half} (alt : alternates l = true)
    (differs : ∀ last, l.getLast? = some last → last ≠ h) : alternates (l ++ [h]) = true := by
  induction l with
  | nil => rfl
  | cons a l ih =>
    cases l with
    | nil => simpa [alternates] using differs a rfl
    | cons b l =>
      simp only [alternates, Bool.and_eq_true] at alt
      simp only [List.cons_append, alternates, Bool.and_eq_true]
      exact ⟨alt.1, ih alt.2 fun last hlast => differs last (by simpa using hlast)⟩

/-- Events that schedule nothing leave alternation as it is. -/
theorem AlternationInv.of_quiet (inv : AlternationInv s) {new : List Event} (quiet : SchedulesNothing new)
    (events : t.events = s.events ++ new) (epoch : t.epoch = s.epoch) (phase : t.phase = s.phase) :
    AlternationInv t := by
  have same : ∀ e, scheduledHalves e t.events = scheduledHalves e s.events := fun e => by
    rw [events, scheduledHalves_append, quiet, List.append_nil]
  exact
    { alternating := fun e => by rw [same]; exact inv.alternating e
      no_later := fun e later => by rw [same]; exact inv.no_later e (epoch ▸ later)
      last_is_phase := fun h last => by rw [same, epoch] at last; exact phase.trans (inv.last_is_phase h last) }

/-- A new epoch starts with no Schedule event, whatever its PHASE. -/
theorem AlternationInv.of_newEpoch (inv : AlternationInv s) {new : List Event} (quiet : SchedulesNothing new)
    (events : t.events = s.events ++ new) (epoch : t.epoch = s.epoch + 1) : AlternationInv t := by
  have same : ∀ e, scheduledHalves e t.events = scheduledHalves e s.events := fun e => by
    rw [events, scheduledHalves_append, quiet, List.append_nil]
  exact
    { alternating := fun e => by rw [same]; exact inv.alternating e
      no_later := fun e later => by rw [same]; exact inv.no_later e (by omega)
      last_is_phase := fun h last => by
        rw [same, inv.no_later t.epoch (by omega)] at last
        exact absurd last nofun }

/-- Scheduling a half the epoch's last Schedule event did not name. -/
theorem AlternationInv.of_schedule (inv : AlternationInv s) {d : Descriptor} (current : d.epoch = s.epoch)
    (differs : ∀ last, (scheduledHalves s.epoch s.events).getLast? = some last → last ≠ d.half)
    (events : t.events = s.events ++ [.schedule d]) (epoch : t.epoch = s.epoch) (phase : t.phase = d.half) :
    AlternationInv t := by
  have own : scheduledHalves s.epoch t.events = scheduledHalves s.epoch s.events ++ [d.half] := by
    rw [events, scheduledHalves_append]
    simp [scheduledHalves, current]
  have other : ∀ e, e ≠ s.epoch → scheduledHalves e t.events = scheduledHalves e s.events := fun e ne => by
    rw [events, scheduledHalves_append]
    simp [scheduledHalves, current, ne.symm]
  refine ⟨fun e => ?_, fun e later => ?_, fun h last => ?_⟩
  · by_cases here : e = s.epoch
    · rw [here, own]
      exact alternates_append (inv.alternating _) differs
    · rw [other e here]
      exact inv.alternating e
  · rw [epoch] at later
    rw [other e later.ne']
    exact inv.no_later e later
  · rw [epoch, own, List.getLast?_concat] at last
    exact phase.trans (Option.some.inj last)

theorem Scheduled.alternationInv {h : Half} (sched : Scheduled h s t) (inv : AlternationInv s) (flips : s.phase ≠ h) :
    AlternationInv t := by
  have differs : ∀ last, (scheduledHalves s.epoch s.events).getLast? = some last → last ≠ h :=
    fun last hlast => inv.last_is_phase last hlast ▸ flips
  cases sched with
  | rx _ _ eq => subst eq; exact inv.of_schedule (d := streamOf .inn h s) rfl differs rfl rfl rfl
  | tx _ _ eq => subst eq; exact inv.of_schedule (d := streamOf .out h s) rfl differs rfl rfl rfl

/-- The state of a change to TX before its fill is scheduled. -/
def enteringTx (s : State) : State :=
  { s with
    epoch := s.epoch + 1
    events := s.events ++ [.clockEnable false, .lineWrite .rxen false, .lineWrite .en true, .lineWrite .txen true] }

theorem changeMode_alternationInv (inv : AlternationInv s) (m : Mode) : AlternationInv (changeMode m s) := by
  cases m with
  | off => rw [changeMode_off]; exact inv.of_newEpoch (fun _ => rfl) rfl rfl
  | rx => rw [changeMode_rx]; exact inv.of_newEpoch (fun _ => rfl) rfl rfl
  | tx =>
    have entering : AlternationInv (enteringTx s) := inv.of_newEpoch (fun _ => rfl) rfl rfl
    have first : scheduledHalves (enteringTx s).epoch (enteringTx s).events = [] := by
      rw [enteringTx, scheduledHalves_append, inv.no_later _ (Nat.lt_succ_self _)]
      rfl
    rw [changeMode_tx]
    exact entering.of_schedule (d := entryFill (s.epoch + 1)) rfl (by rw [first]; exact nofun)
      (by simp [enteringTx]) rfl rfl

theorem Effect.alternationInv {i : Instr} (h : Effect i s t) (inv : AlternationInv s) : AlternationInv t := by
  cases effect_side h with
  | fault f w eq => subst eq; exact inv.of_quiet (fun _ => rfl) rfl rfl rfl
  | ready eq | pass _ _ _ eq => subst eq; exact { inv with }
  | lines p eq => subst eq; exact inv.of_quiet (schedulesNothing_lineEvents p) rfl rfl rfl
  | change m _ _ eq => subst eq; exact changeMode_alternationInv inv m
  | registers side =>
    obtain ⟨_, _, _, _, _, _, quiet, rfl⟩ := side
    exact inv.of_quiet quiet rfl rfl rfl
  | schedule _ _ _ owed u sched eq =>
    subst eq
    have phase : s.phase = 1 := by simp [owedHalf0] at owed; exact owed.2
    exact { sched.alternationInv inv (by rw [phase]; decide) with }

theorem completeDescriptor_alternationInv (inv : AlternationInv s) (d : Descriptor) :
    AlternationInv (completeDescriptor d s) := by
  obtain ⟨-, -, -, w0, w1, new, quiet, e⟩ | ⟨-, e⟩ := completeDescriptor_cases d s
  · rw [e]; exact inv.of_quiet quiet rfl rfl rfl
  · rw [e]; exact inv.of_quiet (fun _ => rfl) rfl rfl rfl

theorem resetBlock_alternationInv : AlternationInv (resetBlock s) := ⟨fun _ => rfl, fun _ _ => rfl, nofun⟩

theorem taken_alternationInv (inv : AlternationInv s) (w : Word) (rest : List Word) :
    AlternationInv (taken w rest s) := inv.of_quiet (new := [.cmd w]) (fun _ => rfl) rfl rfl rfl

theorem inDelivered_alternationInv (inv : AlternationInv s) (d : Descriptor) (rest : List Descriptor) :
    AlternationInv (inDelivered d rest s) := inv.of_quiet (new := [.hostRx d _]) (fun _ => rfl) rfl rfl rfl

theorem outDelivered_alternationInv (inv : AlternationInv s) (given : List Byte) (d : Descriptor)
    (rest : List Descriptor) : AlternationInv (outDelivered given d rest s) :=
  inv.of_quiet (new := [.hostTx d _]) (fun _ => rfl) rfl rfl rfl

theorem Move.alternationInv {turn : Turn} (h : Move turn s t) (inv : AlternationInv s) : AlternationInv t := by
  cases h with
  | stay eq | pass _ eq | push _ _ eq | pop eq => subst eq; exact { inv with }
  | badWord f w rest _ _ eq =>
    subst eq
    exact (taken_alternationInv inv w rest).of_quiet (new := [.fault f w]) (fun _ => rfl) rfl rfl rfl
  | command i w rest _ _ _ _ effect =>
    exact effect.alternationInv (taken_alternationInv inv w rest)
  | overflow _ eq => subst eq; exact inv.of_quiet (fun _ => rfl) rfl rfl rfl
  | schedule _ owed sched =>
    have phase : s.phase = 0 := by simp [owedHalf1] at owed; exact owed.2
    exact sched.alternationInv { inv with } (by show s.phase ≠ 1; rw [phase]; decide)
  | tick samples _ _ eq =>
    obtain ⟨_, _, _, _, _, e, -, -, quiet⟩ := tickData_frame samples s.offset.toNat (halfOf s.cfg s.offset.toNat) s
    rw [e] at eq
    subst eq
    exact inv.of_quiet quiet rfl rfl rfl
  | usbIn d rest _ eq =>
    subst eq
    exact completeDescriptor_alternationInv (inDelivered_alternationInv inv d rest) d
  | usbOut given d rest _ eq =>
    subst eq
    exact completeDescriptor_alternationInv (outDelivered_alternationInv inv given d rest) d
  | reset _ eq => subst eq; exact resetBlock_alternationInv

end Sys2Proof.Machine
end

section
/-! All invariants of the block together (spec/10_state.md R55, R62; spec/42_stream.md R303, R315): reset meets them, and every
step keeps them. -/

namespace Sys2Proof.Machine

variable {s t : State}

theorem resetBlock_blockInv (wf : s.cfg.wellFormed = true) (chips : s.chipreg.length = s.cfg.nRegs) :
    BlockInv (resetBlock s) :=
  { stream := resetBlock_streamInv wf
    shape := resetBlock_shapeInv wf chips
    queues := resetBlock_queueInv
    chip := resetBlock_chipAgrees
    faults := resetBlock_faultInv
    step2 := .of_idle rfl
    alternation := resetBlock_alternationInv }

/-- Settles O58: the state after power-up is its own reset, and its chip has a register for every index. -/
theorem resetMeetsInvariants : Obligations.ResetMeetsInvariants := fun c wf =>
  resetBlock_blockInv (s := State.resetWith c) wf List.length_replicate

theorem dropTurn_blockInv (inv : BlockInv s) : BlockInv (dropTurn s) :=
  { inv with
    stream := { inv.stream with }
    shape := { inv.shape with }
    queues := { inv.queues with }
    alternation := { inv.alternation with } }

theorem Move.blockInv {turn : Turn} (h : Move turn s t) (wf : s.cfg.wellFormed = true) (inv : BlockInv s) :
    BlockInv t :=
  { stream := h.streamInv wf inv.stream inv.step2
    shape := h.shapeInv wf inv.stream inv.shape
    queues := h.queueInv inv.queues
    chip := h.chipAgrees inv.shape inv.chip
    faults := h.faultInv inv.faults
    step2 := h.step2Inv inv.step2
    alternation := h.alternationInv inv.alternation }

/-- Settles O59: each premise of one invariant's step is another of the invariants. -/
theorem blockInvariantKept : Obligations.BlockInvariantKept := by
  intro s t inv h
  obtain ⟨wf, move⟩ := step_move h
  exact move.blockInv wf (dropTurn_blockInv inv)

end Sys2Proof.Machine
end

section
/-! The opcode map in both directions (spec/30_encoding.md R130 to R141, R163). -/

namespace Sys2Proof

variable {w : Word}

/-! ### Each format on joined fields (R131) -/

theorem formatN_joinFields (o : BitVec 4) (i : Instr) : formatN (joinFields o 0 0 0) i = .instr i := by
  simp [formatN]

theorem formatM_joinFields (o code : BitVec 4) (mk : BitVec 4 → Instr) :
    formatM (joinFields o code 0 0) mk = .instr (mk code) := by
  simp [formatM]

theorem formatI_joinFields (o : BitVec 4) (idx : BitVec 8) (mk : BitVec 8 → Instr) :
    formatI (joinFields o 0 idx 0) mk = .instr (mk idx) := by
  simp [formatI]

theorem formatIV_joinFields (o : BitVec 4) (idx : BitVec 8) (val : BitVec 16) (mk : BitVec 8 → BitVec 16 → Instr) :
    formatIV (joinFields o 0 idx val) mk = .instr (mk idx val) := by
  simp [formatIV]

/-- Settles O3: a command's word has its row's opcode, and its row's format reads the operands back. -/
theorem decodeOfEncode : Obligations.DecodeOfEncode := by
  intro i
  cases i with
  | init => exact (decode_opcode1 (opcodeOf_joinFields ..)).trans (formatN_joinFields ..)
  | setMode code => exact (decode_opcode2 (opcodeOf_joinFields ..)).trans (formatM_joinFields ..)
  | getMode => exact (decode_opcode3 (opcodeOf_joinFields ..)).trans (formatN_joinFields ..)
  | setPower code => exact (decode_opcode4 (opcodeOf_joinFields ..)).trans (formatM_joinFields ..)
  | getPower => exact (decode_opcode5 (opcodeOf_joinFields ..)).trans (formatN_joinFields ..)
  | regWrite idx val => exact (decode_opcode6 (opcodeOf_joinFields ..)).trans (formatIV_joinFields ..)
  | regRead idx => exact (decode_opcode7 (opcodeOf_joinFields ..)).trans (formatI_joinFields ..)
  | regSet idx val => exact (decode_opcode8 (opcodeOf_joinFields ..)).trans (formatIV_joinFields ..)
  | regFlush => exact (decode_opcode9 (opcodeOf_joinFields ..)).trans (formatN_joinFields ..)
  | schedStep => exact (decode_opcode10 (opcodeOf_joinFields ..)).trans (formatN_joinFields ..)
  | queryStart => exact (decode_opcode11 (opcodeOf_joinFields ..)).trans (formatN_joinFields ..)
  | getStatus => exact (decode_opcode12 (opcodeOf_joinFields ..)).trans (formatN_joinFields ..)

/-! ### The word of a decoded command -/

/-- A word is four joined fields iff they are its fields. -/
theorem joinFields_eq_iff {o b : BitVec 4} {i : BitVec 8} {v : BitVec 16} :
    joinFields o b i v = w ↔ opcodeOf w = o ∧ subOf w = b ∧ indexOf w = i ∧ valueOf w = v := by
  constructor
  · rintro rfl; simp
  · rintro ⟨rfl, rfl, rfl, rfl⟩; exact joinFields_fields w

theorem encode_of_formatN {i j : Instr} (row : encode i = joinFields (opcodeOf w) 0 0 0)
    (h : formatN w i = .instr j) : encode j = w := by
  obtain ⟨⟨sub, index, value⟩, rfl⟩ := formatN_eq_instr.mp h
  exact row.trans (joinFields_eq_iff.mpr ⟨rfl, sub, index, value⟩)

theorem encode_of_formatM {mk : BitVec 4 → Instr} {j : Instr}
    (row : ∀ code, encode (mk code) = joinFields (opcodeOf w) code 0 0) (h : formatM w mk = .instr j) :
    encode j = w := by
  obtain ⟨⟨index, value⟩, rfl⟩ := formatM_eq_instr.mp h
  exact (row _).trans (joinFields_eq_iff.mpr ⟨rfl, rfl, index, value⟩)

theorem encode_of_formatI {mk : BitVec 8 → Instr} {j : Instr}
    (row : ∀ idx, encode (mk idx) = joinFields (opcodeOf w) 0 idx 0) (h : formatI w mk = .instr j) :
    encode j = w := by
  obtain ⟨⟨sub, value⟩, rfl⟩ := formatI_eq_instr.mp h
  exact (row _).trans (joinFields_eq_iff.mpr ⟨rfl, sub, rfl, value⟩)

theorem encode_of_formatIV {mk : BitVec 8 → BitVec 16 → Instr} {j : Instr}
    (row : ∀ idx val, encode (mk idx val) = joinFields (opcodeOf w) 0 idx val) (h : formatIV w mk = .instr j) :
    encode j = w := by
  obtain ⟨sub, rfl⟩ := formatIV_eq_instr.mp h
  exact (row _ _).trans (joinFields_eq_iff.mpr ⟨rfl, sub, rfl, rfl⟩)

/-- Settles O4: the opcode selects the row, and the row's format leaves no bit of the word free but its operands. -/
theorem encodeOfDecode : Obligations.EncodeOfDecode := by
  intro w i decoded
  rcases opcode_cases (opcodeOf w) with h | h | h | h | h | h | h | h | h | h | h | h | h | h | h | h
  · cases (decode_opcode0 h).symm.trans decoded
  · exact encode_of_formatN (h ▸ rfl) (decode_opcode1 h ▸ decoded)
  · exact encode_of_formatM (h ▸ fun _ => rfl) (decode_opcode2 h ▸ decoded)
  · exact encode_of_formatN (h ▸ rfl) (decode_opcode3 h ▸ decoded)
  · exact encode_of_formatM (h ▸ fun _ => rfl) (decode_opcode4 h ▸ decoded)
  · exact encode_of_formatN (h ▸ rfl) (decode_opcode5 h ▸ decoded)
  · exact encode_of_formatIV (h ▸ fun _ _ => rfl) (decode_opcode6 h ▸ decoded)
  · exact encode_of_formatI (h ▸ fun _ => rfl) (decode_opcode7 h ▸ decoded)
  · exact encode_of_formatIV (h ▸ fun _ _ => rfl) (decode_opcode8 h ▸ decoded)
  · exact encode_of_formatN (h ▸ rfl) (decode_opcode9 h ▸ decoded)
  · exact encode_of_formatN (h ▸ rfl) (decode_opcode10 h ▸ decoded)
  · exact encode_of_formatN (h ▸ rfl) (decode_opcode11 h ▸ decoded)
  · exact encode_of_formatN (h ▸ rfl) (decode_opcode12 h ▸ decoded)
  · cases (decode_opcode13 h).symm.trans decoded
  · cases (decode_opcode14 h).symm.trans decoded
  · cases (decode_opcode15 h).symm.trans decoded

/-! ### Masks and matches (R138) -/

open Sys2Proof.Machine (rowMask rowMatch)

/-- A word agrees with joined fields under a mask iff each of its fields does. -/
theorem and_joinFields_eq_iff {o b o' b' : BitVec 4} {i i' : BitVec 8} {v v' : BitVec 16} :
    w &&& joinFields o' b' i' v' = joinFields o b i v ↔
      opcodeOf w &&& o' = o ∧ subOf w &&& b' = b ∧ indexOf w &&& i' = i ∧ valueOf w &&& v' = v := by
  conv_lhs => rw [← joinFields_fields w, and_joinFields, joinFields_inj]

/-! The mask of each format covers its opcode and its must-be-zero fields (R131). -/

theorem and_maskN {o : BitVec 4} :
    w &&& 0xFFFFFFFF = joinFields o 0 0 0 ↔ opcodeOf w = o ∧ subOf w = 0 ∧ indexOf w = 0 ∧ valueOf w = 0 := by
  rw [show (0xFFFFFFFF : Word) = joinFields (.allOnes 4) (.allOnes 4) (.allOnes 8) (.allOnes 16) from rfl,
    and_joinFields_eq_iff]
  simp only [BitVec.and_allOnes]

theorem and_maskM {o : BitVec 4} :
    w &&& 0xF0FFFFFF = joinFields o 0 0 0 ↔ opcodeOf w = o ∧ indexOf w = 0 ∧ valueOf w = 0 := by
  rw [show (0xF0FFFFFF : Word) = joinFields (.allOnes 4) 0 (.allOnes 8) (.allOnes 16) from rfl, and_joinFields_eq_iff]
  simp only [BitVec.ofNat_eq_ofNat, BitVec.and_allOnes, BitVec.and_zero, true_and]

theorem and_maskI {o : BitVec 4} :
    w &&& 0xFF00FFFF = joinFields o 0 0 0 ↔ opcodeOf w = o ∧ subOf w = 0 ∧ valueOf w = 0 := by
  rw [show (0xFF00FFFF : Word) = joinFields (.allOnes 4) (.allOnes 4) 0 (.allOnes 16) from rfl, and_joinFields_eq_iff]
  simp only [BitVec.ofNat_eq_ofNat, BitVec.and_allOnes, BitVec.and_zero, true_and]

theorem and_maskIV {o : BitVec 4} : w &&& 0xFF000000 = joinFields o 0 0 0 ↔ opcodeOf w = o ∧ subOf w = 0 := by
  rw [show (0xFF000000 : Word) = joinFields (.allOnes 4) (.allOnes 4) 0 0 from rfl, and_joinFields_eq_iff]
  simp only [BitVec.ofNat_eq_ofNat, BitVec.and_allOnes, BitVec.and_zero, and_true]

/-- A command's word agrees with its row: the mask's zeros cover its operands. -/
theorem encode_and_rowMask (i : Instr) : encode i &&& rowMask i = rowMatch i := by
  cases i with
  | setMode code => exact (and_maskM (o := 2)).mpr (by simp [encode])
  | setPower code => exact (and_maskM (o := 4)).mpr (by simp [encode])
  | regWrite idx val => exact (and_maskIV (o := 6)).mpr (by simp [encode])
  | regRead idx => exact (and_maskI (o := 7)).mpr (by simp [encode])
  | regSet idx val => exact (and_maskIV (o := 8)).mpr (by simp [encode])
  | _ => rfl

theorem decode_of_and_maskN {o : BitVec 4} {i : Instr} (row : opcodeOf w = o → decode w = formatN w i)
    (h : w &&& 0xFFFFFFFF = joinFields o 0 0 0) : decode w = .instr i := by
  obtain ⟨opcode, zero⟩ := and_maskN.mp h
  exact (row opcode).trans (formatN_eq_instr.mpr ⟨zero, rfl⟩)

theorem decode_of_and_maskM {o : BitVec 4} {mk : BitVec 4 → Instr} (row : opcodeOf w = o → decode w = formatM w mk)
    (h : w &&& 0xF0FFFFFF = joinFields o 0 0 0) : decode w = .instr (mk (subOf w)) := by
  obtain ⟨opcode, zero⟩ := and_maskM.mp h
  exact (row opcode).trans (formatM_eq_instr.mpr ⟨zero, rfl⟩)

theorem decode_of_and_maskI {o : BitVec 4} {mk : BitVec 8 → Instr} (row : opcodeOf w = o → decode w = formatI w mk)
    (h : w &&& 0xFF00FFFF = joinFields o 0 0 0) : decode w = .instr (mk (indexOf w)) := by
  obtain ⟨opcode, zero⟩ := and_maskI.mp h
  exact (row opcode).trans (formatI_eq_instr.mpr ⟨zero, rfl⟩)

theorem decode_of_and_maskIV {o : BitVec 4} {mk : BitVec 8 → BitVec 16 → Instr}
    (row : opcodeOf w = o → decode w = formatIV w mk) (h : w &&& 0xFF000000 = joinFields o 0 0 0) :
    decode w = .instr (mk (indexOf w) (valueOf w)) := by
  obtain ⟨opcode, zero⟩ := and_maskIV.mp h
  exact (row opcode).trans (formatIV_eq_instr.mpr ⟨zero, rfl⟩)

/-- A word that agrees with a row decodes to a command of that row, with the operands the mask leaves free. -/
theorem decode_of_and_rowMask {i : Instr} (h : w &&& rowMask i = rowMatch i) :
    ∃ j, rowMatch j = rowMatch i ∧ decode w = .instr j := by
  cases i with
  | init => exact ⟨_, rfl, decode_of_and_maskN decode_opcode1 h⟩
  | setMode => exact ⟨.setMode (subOf w), rfl, decode_of_and_maskM decode_opcode2 h⟩
  | getMode => exact ⟨_, rfl, decode_of_and_maskN decode_opcode3 h⟩
  | setPower => exact ⟨.setPower (subOf w), rfl, decode_of_and_maskM decode_opcode4 h⟩
  | getPower => exact ⟨_, rfl, decode_of_and_maskN decode_opcode5 h⟩
  | regWrite => exact ⟨.regWrite (indexOf w) (valueOf w), rfl, decode_of_and_maskIV decode_opcode6 h⟩
  | regRead => exact ⟨.regRead (indexOf w), rfl, decode_of_and_maskI decode_opcode7 h⟩
  | regSet => exact ⟨.regSet (indexOf w) (valueOf w), rfl, decode_of_and_maskIV decode_opcode8 h⟩
  | regFlush => exact ⟨_, rfl, decode_of_and_maskN decode_opcode9 h⟩
  | schedStep => exact ⟨_, rfl, decode_of_and_maskN decode_opcode10 h⟩
  | queryStart => exact ⟨_, rfl, decode_of_and_maskN decode_opcode11 h⟩
  | getStatus => exact ⟨_, rfl, decode_of_and_maskN decode_opcode12 h⟩

/-- Settles O5: a decoded word is its command's encoding, which agrees with its row; a word that agrees with a row decodes to
a command of it. -/
theorem rowSelectedByMaskAndMatch : Obligations.RowSelectedByMaskAndMatch := by
  intro w m
  constructor
  · rintro ⟨i, rfl, decoded⟩
    exact ⟨i, rfl, encodeOfDecode w i decoded ▸ encode_and_rowMask i⟩
  · rintro ⟨i, rfl, agrees⟩
    exact decode_of_and_rowMask agrees

/-! ### The encoding as a number (R163) -/

theorem joinFields_eq_ofNat (o b : BitVec 4) (i : BitVec 8) (v : BitVec 16) :
    joinFields o b i v =
      BitVec.ofNat 32 ((o.toNat <<< 28) ||| (b.toNat <<< 24) ||| (i.toNat <<< 16) ||| v.toNat) := by
  have number : (joinFields o b i v).toNat =
      (o.toNat <<< 28) ||| (b.toNat <<< 24) ||| (i.toNat <<< 16) ||| v.toNat := by
    simp only [joinFields, BitVec.toNat_append, Nat.shiftLeft_or_distrib, ← Nat.shiftLeft_add]
  rw [← number, BitVec.ofNat_toNat, BitVec.setWidth_eq]

theorem joinFields_numbers (o b : BitVec 4) (i : BitVec 8) (v : BitVec 16) :
    ∃ op code idx val : Nat, op < 16 ∧ code < 16 ∧ idx < 256 ∧ val < 65536 ∧
      joinFields o b i v = BitVec.ofNat 32 ((op <<< 28) ||| (code <<< 24) ||| (idx <<< 16) ||| val) ∧
      (op, code, idx, val) = (o.toNat, b.toNat, i.toNat, v.toNat) :=
  ⟨_, _, _, _, o.isLt, b.isLt, i.isLt, v.isLt, joinFields_eq_ofNat o b i v, rfl⟩

/-- Settles O1: each row joins its opcode, code, index and value, the absent ones 0. -/
theorem encodingFunction : Obligations.EncodingFunction := by
  refine ⟨fun i => ?_, rfl, rfl⟩
  cases i <;> exact joinFields_numbers _ _ _ _

/-- Settles O2: each listed word is the encoding of its command. -/
theorem listedWordsDecode : Obligations.ListedWordsDecode :=
  ⟨decodeOfEncode .init, decodeOfEncode (.setMode 1), decodeOfEncode .getMode, decodeOfEncode (.setPower 3),
    decodeOfEncode .getPower, decodeOfEncode (.regWrite 3 0x1AB), decodeOfEncode (.regRead 3),
    decodeOfEncode (.regSet 5 0x155), decodeOfEncode .regFlush, decodeOfEncode .schedStep,
    decodeOfEncode .queryStart, decodeOfEncode .getStatus⟩

end Sys2Proof
end

section
/-! Words that are no command, and reserved codes (spec/30_encoding.md R134, R139 to R141): the verdict on the taken word, and
the step that enters the fault state with it. -/

namespace Sys2Proof

variable {w : Word}

/-! ### The opcode as a number selects the format (R131, R138) -/

theorem opcodeOf_eq_of_toNat {n : Nat} (h : w.toNat / 2 ^ 28 = n) : opcodeOf w = BitVec.ofNat 4 n := by
  rw [← h, ← opcodeOf_toNat, BitVec.ofNat_toNat, BitVec.setWidth_eq]

theorem decode_eq_formatN (h : w.toNat / 2 ^ 28 ∈ [0x1, 0x3, 0x5, 0x9, 0xA, 0xB, 0xC]) :
    ∃ i, decode w = formatN w i := by
  simp only [List.mem_cons, List.not_mem_nil, or_false] at h
  rcases h with h | h | h | h | h | h | h
  · exact ⟨_, decode_opcode1 (opcodeOf_eq_of_toNat h)⟩
  · exact ⟨_, decode_opcode3 (opcodeOf_eq_of_toNat h)⟩
  · exact ⟨_, decode_opcode5 (opcodeOf_eq_of_toNat h)⟩
  · exact ⟨_, decode_opcode9 (opcodeOf_eq_of_toNat h)⟩
  · exact ⟨_, decode_opcode10 (opcodeOf_eq_of_toNat h)⟩
  · exact ⟨_, decode_opcode11 (opcodeOf_eq_of_toNat h)⟩
  · exact ⟨_, decode_opcode12 (opcodeOf_eq_of_toNat h)⟩

theorem decode_eq_formatM (h : w.toNat / 2 ^ 28 ∈ [0x2, 0x4]) : ∃ mk, decode w = formatM w mk := by
  simp only [List.mem_cons, List.not_mem_nil, or_false] at h
  rcases h with h | h
  · exact ⟨_, decode_opcode2 (opcodeOf_eq_of_toNat h)⟩
  · exact ⟨_, decode_opcode4 (opcodeOf_eq_of_toNat h)⟩

theorem decode_eq_formatIV (h : w.toNat / 2 ^ 28 ∈ [0x6, 0x8]) : ∃ mk, decode w = formatIV w mk := by
  simp only [List.mem_cons, List.not_mem_nil, or_false] at h
  rcases h with h | h
  · exact ⟨_, decode_opcode6 (opcodeOf_eq_of_toNat h)⟩
  · exact ⟨_, decode_opcode8 (opcodeOf_eq_of_toNat h)⟩

theorem decode_reserved
    (h : w.toNat / 2 ^ 28 = 0x0 ∨ w.toNat / 2 ^ 28 = 0xD ∨ w.toNat / 2 ^ 28 = 0xE ∨ w.toNat / 2 ^ 28 = 0xF) :
    decode w = .bad .illegalOpcode := by
  rcases h with h | h | h | h
  · exact decode_opcode0 (opcodeOf_eq_of_toNat h)
  · exact decode_opcode13 (opcodeOf_eq_of_toNat h)
  · exact decode_opcode14 (opcodeOf_eq_of_toNat h)
  · exact decode_opcode15 (opcodeOf_eq_of_toNat h)

/-! ### What each format refuses (R140) -/

theorem subOf_eq_zero_iff : subOf w = 0 ↔ w.toNat / 2 ^ 24 % 16 = 0 := by
  rw [← subOf_toNat, BitVec.toNat_eq]; rfl

theorem indexOf_eq_zero_iff : indexOf w = 0 ↔ w.toNat / 2 ^ 16 % 256 = 0 := by
  rw [← indexOf_toNat, BitVec.toNat_eq]; rfl

theorem valueOf_eq_zero_iff : valueOf w = 0 ↔ w.toNat % 65536 = 0 := by
  rw [← valueOf_toNat, BitVec.toNat_eq]; rfl

theorem formatN_eq_bad {i : Instr}
    (h : w.toNat / 2 ^ 24 % 16 ≠ 0 ∨ w.toNat / 2 ^ 16 % 256 ≠ 0 ∨ w.toNat % 65536 ≠ 0) :
    formatN w i = .bad .illegalOperand :=
  if_neg (by rwa [subOf_eq_zero_iff, indexOf_eq_zero_iff, valueOf_eq_zero_iff, not_and_or, not_and_or])

theorem formatM_eq_bad {mk : BitVec 4 → Instr} (h : w.toNat / 2 ^ 16 % 256 ≠ 0 ∨ w.toNat % 65536 ≠ 0) :
    formatM w mk = .bad .illegalOperand :=
  if_neg (by rwa [indexOf_eq_zero_iff, valueOf_eq_zero_iff, not_and_or])

theorem formatI_eq_bad {mk : BitVec 8 → Instr} (h : w.toNat / 2 ^ 24 % 16 ≠ 0 ∨ w.toNat % 65536 ≠ 0) :
    formatI w mk = .bad .illegalOperand :=
  if_neg (by rwa [subOf_eq_zero_iff, valueOf_eq_zero_iff, not_and_or])

theorem formatIV_eq_bad {mk : BitVec 8 → BitVec 16 → Instr} (h : w.toNat / 2 ^ 24 % 16 ≠ 0) :
    formatIV w mk = .bad .illegalOperand :=
  if_neg (by rwa [subOf_eq_zero_iff])

end Sys2Proof

namespace Sys2Proof.Machine

variable {s : State} {w : Word} {rest : List Word}

/-! ### The step of a taken word (42 R262) -/

theorem sequencerStep_of_idle (idle : s.seq = .idle) : sequencerStep s = idleStep s := by
  rw [sequencerStep, idle]

theorem idleStep_of_head (head : s.cmdq = w :: rest) (held : heldBack w s = false) :
    idleStep s = runWord w (taken w rest s) := by
  simp [idleStep, head, held, emit]

/-- The step of a taken word decodes and executes it in `takenState`. -/
theorem step_of_takes (takes : Takes s w rest) : step s = runWord w (takenState s w rest) := by
  obtain ⟨wf, turn, idle, head, held⟩ := takes
  rw [step_eq_of_wf wf, turn, takeTurn, sequencerStep_of_idle (s := dropTurn s) idle]
  exact idleStep_of_head (s := dropTurn s) head held

theorem runWord_of_instr {i : Instr} (decoded : decode w = .instr i) : runWord w s = exec i s := by
  rw [runWord, decoded]

theorem runWord_of_bad {e : DecodeError} (refused : decode w = .bad e) :
    runWord w s = .next (raiseFault (faultOfDecode e) w s) := by
  rw [runWord, refused]

/-- Settles O6: no row has the opcode, so the decoder's verdict is the fault. -/
theorem reservedOpcodeFaults : Obligations.ReservedOpcodeFaults := by
  intro s w rest takes opcode
  rw [step_of_takes takes]
  exact runWord_of_bad (decode_reserved opcode)

/-! ### Reserved codes (R134) -/

theorem exec_setMode_reserved {code : BitVec 4} (reserved : 3 ≤ code.toNat) (s : State) :
    exec (.setMode code) s = .next (raiseFault .illegalOperand (encode (.setMode code)) s) := by
  rw [exec, execSetMode, modeOfCode_none code reserved]

theorem exec_setPower_reserved {code : BitVec 4} (reserved : 4 ≤ code.toNat) (s : State) :
    exec (.setPower code) s = .next (raiseFault .illegalOperand (encode (.setPower code)) s) := by
  rw [exec, execSetPower, powerOfCode_none code reserved]

/-- A word whose code its command refuses faults with the word itself, whether or not its other fields are 0: the
command's encoding is the word. -/
theorem runWord_of_refused_code {mk : BitVec 4 → Instr} (row : decode w = formatM w mk)
    (refuses : exec (mk (subOf w)) s = .next (raiseFault .illegalOperand (encode (mk (subOf w))) s)) :
    runWord w s = .next (raiseFault .illegalOperand w s) := by
  by_cases zero : indexOf w = 0 ∧ valueOf w = 0
  · have decoded : decode w = .instr (mk (subOf w)) := row.trans (formatM_eq_instr.mpr ⟨zero, rfl⟩)
    rw [runWord_of_instr decoded, refuses, encodeOfDecode w _ decoded]
  · exact runWord_of_bad (row.trans (if_neg zero))

/-- Settles O7: the format refuses a nonzero must-be-zero field, and the command itself a reserved code. -/
theorem illegalOperandFaults : Obligations.IllegalOperandFaults := by
  rintro s w rest _ _ _ _ takes rfl rfl rfl rfl bad
  rw [step_of_takes takes]
  rcases bad with ⟨op, nonzero⟩ | ⟨op, nonzero⟩ | ⟨op, nonzero⟩ | ⟨op, nonzero⟩ | ⟨op, reserved⟩ | ⟨op, reserved⟩
  · obtain ⟨i, row⟩ := decode_eq_formatN op
    exact runWord_of_bad (row.trans (formatN_eq_bad nonzero))
  · obtain ⟨mk, row⟩ := decode_eq_formatM op
    exact runWord_of_bad (row.trans (formatM_eq_bad nonzero))
  · exact runWord_of_bad ((decode_opcode7 (opcodeOf_eq_of_toNat op)).trans (formatI_eq_bad nonzero))
  · obtain ⟨mk, row⟩ := decode_eq_formatIV op
    exact runWord_of_bad (row.trans (formatIV_eq_bad nonzero))
  · rw [← subOf_toNat] at reserved
    exact runWord_of_refused_code (decode_opcode2 (opcodeOf_eq_of_toNat op)) (exec_setMode_reserved reserved _)
  · rw [← subOf_toNat] at reserved
    exact runWord_of_refused_code (decode_opcode4 (opcodeOf_eq_of_toNat op)) (exec_setPower_reserved reserved _)

end Sys2Proof.Machine
end

section
/-! The response words as numbers (spec/30_encoding.md R143, R144, R146, R147), and the four commands that answer from the
state alone. -/

namespace Sys2Proof.Machine

/-- Joined bit vectors as a number: the upper one counts multiples of the lower one's range. -/
theorem toNat_append_eq_add {m n : Nat} (x : BitVec m) (y : BitVec n) :
    (x ++ y).toNat = 2 ^ n * x.toNat + y.toNat := by
  rw [BitVec.toNat_append, ← Nat.shiftLeft_add_eq_or_of_lt y.isLt, Nat.shiftLeft_eq, Nat.mul_comm]

/-! ### GET_POWER (41 R225) -/

theorem powerResponse_toNat (l : BitVec 3) :
    (powerResponse l).toNat = 16 * l.toNat + (powerCodeOfLines l).toNat := by
  simp only [powerResponse, toNat_append_eq_add, BitVec.ofNat_eq_ofNat, BitVec.toNat_ofNat]
  omega

theorem powerCodeOfLines_toNat (l : BitVec 3) :
    (powerCodeOfLines l).toNat =
      if l = 0b000 then 0 else if l = 0b001 then 1 else if l = 0b011 then 2 else if l = 0b101 then 3 else 4 := by
  revert l; decide

/-- Settles O21: the decoded code lies in the low four bits, the lines above it. -/
theorem getPowerResult : Obligations.GetPowerResult := fun s =>
  ⟨powerResponse s.lines, rfl, by rw [powerResponse_toNat, powerCodeOfLines_toNat]⟩

/-! ### GET_MODE (41 R240) -/

/-- Settles O22, mode by mode. -/
theorem getModeResult : Obligations.GetModeResult := by
  intro s
  refine ⟨modeResponse s.mode, rfl, ?_⟩
  cases s.mode <;> rfl

/-! ### QUERY_START (42 R290) -/

theorem startReady_iff {s : State} : startReady s = true ↔ s.mode ≠ .off ∧ s.fillPending = false := by
  simp [startReady]

theorem exec_queryStart (s : State) : exec .queryStart s = .next (respondedState (queryResponse (startReady s)) s) := rfl

/-- Settles O35: the response is the streaming-start predicate. -/
theorem queryStartResult : Obligations.QueryStartResult := by
  intro s
  constructor
  · intro h
    rw [exec_queryStart, startReady_iff.mpr h]
    rfl
  · intro h
    have idle : startReady s = false := by
      rw [Bool.eq_false_iff, ne_eq, startReady_iff]
      rcases h with off | pending <;> simp [*]
    rw [exec_queryStart, idle]
    rfl

/-! ### GET_STATUS (42 R292) -/

theorem statusResponse_toNat (count : BitVec 6) (m : Mode) (ready pending clk : Bool) (phase : Half) (o : BitVec 20) :
    (statusResponse count m ready pending clk phase o).toNat =
      2 ^ 26 * count.toNat + 2 ^ 24 * (modeCode m).toNat + 2 ^ 23 * ready.toNat + 2 ^ 22 * pending.toNat +
        2 ^ 21 * clk.toNat + 2 ^ 20 * phase.val + o.toNat := by
  have bit : phase.val % 2 = phase.val := Nat.mod_eq_of_lt phase.isLt
  simp only [statusResponse, toNat_append_eq_add, BitVec.toNat_ofBool, BitVec.toNat_ofNat, pow_one, bit]
  omega

theorem statusCount_toNat (n : BitVec 32) : (statusCount n).toNat = min n.toNat 63 := by
  rw [statusCount, BitVec.toNat_ofNat]
  omega

/-- Settles O36: every field is narrower than its place in the sum. -/
theorem getStatusResult : Obligations.GetStatusResult := by
  intro s
  have number := statusResponse_toNat (statusCount s.xrunCount) s.mode s.bufReady s.fillPending s.clkEn s.phase s.offset
  have ready := s.bufReady.toNat_lt
  have pending := s.fillPending.toNat_lt
  have clk := s.clkEn.toNat_lt
  have phase := s.phase.isLt
  have offset := s.offset.isLt
  have mode : (modeCode s.mode).toNat < 4 := (modeCode s.mode).isLt
  rw [statusCount_toNat] at number
  refine ⟨_, rfl, by omega, by omega, by omega, by omega, by omega, ?_, by omega⟩
  trans (modeCode s.mode).toNat
  · omega
  · cases s.mode <;> rfl

end Sys2Proof.Machine
end

section
/-! The fields of a bus frame (spec/30_encoding.md R150 to R152) bit by bit: which of a frame's bits are set, and that a
well-formed layout (spec/00_scope.md R14) keeps the fields apart. -/

namespace Sys2Proof.Machine

variable {c : Config} {i : Nat}

/-- The layout of a frame in a well-formed configuration; an index field of width 0 has no bit to keep apart. -/
theorem wf_frame (wf : c.wellFormed = true) :
    c.nRegs ≤ 2 ^ c.indexBits ∧ c.dataBits ≤ c.readFlagBit ∧ c.readFlagBit < c.frameBits ∧
      ∀ k, c.indexShift ≤ k → k < c.indexShift + c.indexBits → c.dataBits ≤ k ∧ k ≠ c.readFlagBit ∧ k < c.frameBits := by
  simp [Config.wellFormed, Config.regsOk, Config.frameOk] at wf
  refine ⟨by tauto, by tauto, by tauto, fun k low high => ?_⟩
  omega

/-- The index sets bits of its own field only. -/
theorem index_bit_inside (lt : i < 2 ^ c.indexBits) {k : Nat} (set : (i <<< c.indexShift).testBit k = true) :
    c.indexShift ≤ k ∧ k < c.indexShift + c.indexBits := by
  rw [Nat.testBit_shiftLeft, Bool.and_eq_true, decide_eq_true_iff] at set
  obtain ⟨low, bit⟩ := set
  have high : k - c.indexShift < c.indexBits :=
    (Nat.pow_lt_pow_iff_right one_lt_two).mp ((Nat.ge_two_pow_of_testBit bit).trans_lt lt)
  omega

/-- So it sets none of the data field's, nor the read flag, nor any past the frame. -/
theorem index_bit_apart (wf : c.wellFormed = true) (lt : i < c.nRegs) {k : Nat}
    (outside : k < c.dataBits ∨ k = c.readFlagBit ∨ c.frameBits ≤ k) : (i <<< c.indexShift).testBit k = false := by
  obtain ⟨regs, -, -, apart⟩ := wf_frame wf
  refine Bool.eq_false_iff.mpr fun set => ?_
  obtain ⟨low, high⟩ := index_bit_inside (lt.trans_le regs) set
  obtain ⟨data, flag, frame⟩ := apart k low high
  omega

theorem testBit_wframe (c : Config) (i : Nat) (v : RegVal) (k : Nat) :
    (wframe c i v).testBit k = ((i <<< c.indexShift).testBit k || (decide (k < c.dataBits) && v.toNat.testBit k)) := by
  rw [wframe, mask, Nat.and_two_pow_sub_one_eq_mod, Nat.testBit_or, Nat.testBit_mod_two_pow]

theorem testBit_rframe (c : Config) (i k : Nat) :
    (rframe c i).testBit k = (decide (c.readFlagBit = k) || (i <<< c.indexShift).testBit k) := by
  rw [rframe, Nat.one_shiftLeft, Nat.testBit_or, Nat.testBit_two_pow]

/-- The index field reads back once no other field sets a bit in it. -/
theorem indexField_eq {f : Frame} (lt : i < 2 ^ c.indexBits)
    (field : ∀ k, c.indexShift ≤ k → k < c.indexShift + c.indexBits → f.testBit k = (i <<< c.indexShift).testBit k) :
    f / 2 ^ c.indexShift % 2 ^ c.indexBits = i := by
  apply Nat.eq_of_testBit_eq
  intro j
  rw [Nat.testBit_mod_two_pow, Nat.testBit_div_two_pow]
  by_cases hj : j < c.indexBits
  · simp [hj, field (j + c.indexShift) (by omega) (by omega), Nat.testBit_shiftLeft]
  · simp [hj, Nat.testBit_lt_two_pow (lt_of_lt_of_le lt (Nat.pow_le_pow_right two_pos (Nat.le_of_not_lt hj)))]

/-! ### A write frame (R151) -/

section
variable (wf : c.wellFormed = true) (lt : i < c.nRegs)
include wf lt

theorem wframe_data (v : RegVal) : wframe c i v % 2 ^ c.dataBits = v.toNat % 2 ^ c.dataBits := by
  apply Nat.eq_of_testBit_eq
  intro k
  simp only [Nat.testBit_mod_two_pow, testBit_wframe]
  by_cases data : k < c.dataBits
  · simp [data, index_bit_apart wf lt (.inl data)]
  · simp [data]

theorem wframe_index (v : RegVal) : wframe c i v / 2 ^ c.indexShift % 2 ^ c.indexBits = i := by
  obtain ⟨regs, -, -, apart⟩ := wf_frame wf
  refine indexField_eq (lt.trans_le regs) fun k low high => ?_
  simp [testBit_wframe, (apart k low high).1]

theorem wframe_readFlag (v : RegVal) : (wframe c i v).testBit c.readFlagBit = false := by
  obtain ⟨-, data, -, -⟩ := wf_frame wf
  simp [testBit_wframe, index_bit_apart wf lt, data]

theorem wframe_lt (v : RegVal) : wframe c i v < 2 ^ c.frameBits := by
  obtain ⟨-, data, flag, -⟩ := wf_frame wf
  refine Nat.lt_pow_two_of_testBit _ fun k past => ?_
  have beyond : c.dataBits ≤ k := by omega
  simp [testBit_wframe, index_bit_apart wf lt (.inr (.inr past)), beyond]

/-! ### A read request (R152) -/

theorem rframe_data : rframe c i % 2 ^ c.dataBits = 0 := by
  obtain ⟨-, flag, -, -⟩ := wf_frame wf
  apply Nat.eq_of_testBit_eq
  intro k
  simp only [Nat.testBit_mod_two_pow, testBit_rframe, Nat.zero_testBit]
  by_cases data : k < c.dataBits
  · have other : c.readFlagBit ≠ k := by omega
    simp [other, index_bit_apart wf lt (.inl data)]
  · simp [data]

theorem rframe_index : rframe c i / 2 ^ c.indexShift % 2 ^ c.indexBits = i := by
  obtain ⟨regs, -, -, apart⟩ := wf_frame wf
  refine indexField_eq (lt.trans_le regs) fun k low high => ?_
  simp [testBit_rframe, (apart k low high).2.1.symm]

theorem rframe_lt : rframe c i < 2 ^ c.frameBits := by
  obtain ⟨-, -, flag, -⟩ := wf_frame wf
  refine Nat.lt_pow_two_of_testBit _ fun k past => ?_
  have other : c.readFlagBit ≠ k := by omega
  simp [testBit_rframe, index_bit_apart wf lt (.inr (.inr past)), other]

end

theorem rframe_readFlag (c : Config) (i : Nat) : (rframe c i).testBit c.readFlagBit = true := by
  simp [testBit_rframe]

/-- Settles O16: each field of a write frame and of a read request, read off its bits. -/
theorem frameFieldsReadBack : Obligations.FrameFieldsReadBack := fun c i v wf lt =>
  ⟨wframe_data wf lt v, wframe_index wf lt v, wframe_readFlag wf lt v, wframe_lt wf lt v,
    rframe_data wf lt, rframe_index wf lt, rframe_readFlag c i, rframe_lt wf lt⟩

end Sys2Proof.Machine
end

section
/-! The register commands (spec/40_register_bus.md R182 to R211): what each answers on either side of the index check,
the chip's answer to a read, and what a flush's turns leave together. -/

namespace Sys2Proof.Machine

variable {s : State} {idx : BitVec 8}

/-! ### The index check (R182) -/

theorem indexOk_iff {c : Config} : indexOk c idx = true ↔ idx.toNat < c.nRegs := decide_eq_true_iff

theorem indexOk_eq_false {c : Config} (le : c.nRegs ≤ idx.toNat) : ¬ indexOk c idx = true :=
  fun ok => (indexOk_iff.mp ok).not_ge le

/-- Settles O15: the index check comes before anything else a register command does. -/
theorem badIndexFaults : Obligations.BadIndexFaults := fun _ _ _ le =>
  ⟨if_neg (indexOk_eq_false le), if_neg (indexOk_eq_false le), if_neg (indexOk_eq_false le)⟩

theorem exec_regWrite_of_lt (lt : idx.toNat < s.cfg.nRegs) (val : BitVec 16) :
    exec (.regWrite idx val) s =
      .next (setDirty idx.toNat false
        (setCache idx.toNat (maskValue s.cfg val) (busWrite idx.toNat (maskValue s.cfg val) s))) :=
  if_pos (indexOk_iff.mpr lt)

theorem exec_regRead_of_lt (lt : idx.toNat < s.cfg.nRegs) :
    exec (.regRead idx) s = .next (respond (readResponse (busReadValue s idx.toNat)) (busRead idx.toNat s)) :=
  if_pos (indexOk_iff.mpr lt)

theorem exec_regSet_of_eq (lt : idx.toNat < s.cfg.nRegs) {val : BitVec 16}
    (same : maskValue s.cfg val = cacheAt s idx.toNat) : exec (.regSet idx val) s = .next s :=
  (if_pos (indexOk_iff.mpr lt)).trans (if_pos same)

theorem exec_regSet_of_ne (lt : idx.toNat < s.cfg.nRegs) {val : BitVec 16}
    (other : maskValue s.cfg val ≠ cacheAt s idx.toNat) :
    exec (.regSet idx val) s =
      .next (setDirty idx.toNat true (setCache idx.toNat (maskValue s.cfg val) s)) :=
  (if_pos (indexOk_iff.mpr lt)).trans (if_neg other)

/-! ### REG_WRITE and REG_SET (R190, R200) -/

/-- The data field of a write frame holds a masked value whole. -/
theorem wframe_maskValue (c : Config) (i : Nat) (val : BitVec 16) :
    wframe c i (maskValue c val) = (i <<< c.indexShift) ||| (maskValue c val).toNat := by
  rw [wframe, mask, Nat.and_two_pow_sub_one_eq_mod, Nat.mod_eq_of_lt (maskValue_lt c val)]

/-- Settles O11: the write-through state, with the value masked once. -/
theorem regWriteResult : Obligations.RegWriteResult := by
  intro s idx val lt
  refine ⟨maskValue s.cfg val, maskValue_toNat s.cfg val, ?_⟩
  rw [exec_regWrite_of_lt lt, regWrite_eq, maskValue_mask, wframe_maskValue]

theorem maskValue_eq_iff {c : Config} {val : BitVec 16} {v : RegVal} :
    maskValue c val = v ↔ val.toNat % 2 ^ c.dataBits = v.toNat := by
  rw [← BitVec.toNat_inj, maskValue_toNat]

/-- Settles O13: the comparison is of the masked value with the cached one. -/
theorem regSetResult : Obligations.RegSetResult := by
  intro s idx val lt
  refine ⟨fun same => exec_regSet_of_eq lt (maskValue_eq_iff.mpr same), fun other => ?_⟩
  exact ⟨maskValue s.cfg val, maskValue_toNat s.cfg val, exec_regSet_of_ne lt (other ∘ maskValue_eq_iff.mp)⟩

/-! ### The chip's answer and REG_READ (R185, R186, R195) -/

theorem drawnFrame_eq_mod (c : Config) (k : Nat) : drawnFrame c k = Config.freeFrame k % 2 ^ c.frameBits :=
  Nat.and_two_pow_sub_one_eq_mod ..

/-- An echoed frame as a number: the draw's bits count multiples of the data field's range. -/
theorem echoFrame_eq_add (c : Config) (drawn : Frame) (v : RegVal) :
    echoFrame c drawn v = 2 ^ c.dataBits * (drawn / 2 ^ c.dataBits) + v.toNat % 2 ^ c.dataBits := by
  have fits : v.toNat % 2 ^ c.dataBits < 2 ^ c.dataBits := Nat.mod_lt _ (by positivity)
  rw [echoFrame, mask, Nat.and_two_pow_sub_one_eq_mod, ← Nat.shiftLeft_add_eq_or_of_lt fits, Nat.shiftLeft_eq,
    Nat.shiftRight_eq_div_pow, Nat.mul_comm]

theorem echoFrame_div (c : Config) (drawn : Frame) (v : RegVal) :
    echoFrame c drawn v / 2 ^ c.dataBits = drawn / 2 ^ c.dataBits := by
  have fits : v.toNat % 2 ^ c.dataBits < 2 ^ c.dataBits := Nat.mod_lt _ (by positivity)
  rw [echoFrame_eq_add, Nat.mul_add_div (by positivity), Nat.div_eq_of_lt fits, Nat.add_zero]

theorem echoFrame_mod (c : Config) (drawn : Frame) (v : RegVal) :
    echoFrame c drawn v % 2 ^ c.dataBits = v.toNat % 2 ^ c.dataBits := by
  rw [echoFrame_eq_add, Nat.mul_add_mod, Nat.mod_mod]

theorem chipAnswer_of_drawn {i : Nat} (drawn : s.cfg.chipResponse = .oracle ∨ chipregAt s i = none) :
    chipAnswer s i = drawnFrame s.cfg s.draws := by
  unfold chipAnswer
  obtain oracle | undefined := drawn
  · rw [oracle]
  · rw [undefined]
    split <;> rfl

theorem chipAnswer_of_echo {i : Nat} {v : RegVal} (echo : s.cfg.chipResponse = .echo)
    (stored : chipregAt s i = some v) :
    chipAnswer s i = echoFrame s.cfg (drawnFrame s.cfg s.draws) v := by
  rw [chipAnswer, echo, stored]

/-- The bits above the data field are drawn, whatever the chip. -/
theorem chipAnswer_div (s : State) (i : Nat) :
    chipAnswer s i / 2 ^ s.cfg.dataBits = drawnFrame s.cfg s.draws / 2 ^ s.cfg.dataBits := by
  cases chip : s.cfg.chipResponse with
  | oracle => rw [chipAnswer_of_drawn (.inl chip)]
  | echo =>
    cases stored : chipregAt s i with
    | none => rw [chipAnswer_of_drawn (.inr stored)]
    | some v => rw [chipAnswer_of_echo chip stored, echoFrame_div]

/-- So the answer is no longer than a frame. -/
theorem chipAnswer_lt (wf : s.cfg.wellFormed = true) (i : Nat) : chipAnswer s i < 2 ^ s.cfg.frameBits := by
  obtain ⟨-, data, flag, -⟩ := wf_frame wf
  have drawn : drawnFrame s.cfg s.draws < 2 ^ s.cfg.frameBits := by
    rw [drawnFrame_eq_mod]
    exact Nat.mod_lt _ (by positivity)
  rw [← Nat.sub_add_cancel (data.trans flag.le), pow_add, ← Nat.div_lt_iff_lt_mul (by positivity)] at drawn ⊢
  rwa [chipAnswer_div]

theorem wf_dataBits {c : Config} (wf : c.wellFormed = true) : c.dataBits ≤ 16 := by
  simp [Config.wellFormed, Config.regsOk] at wf
  tauto

/-- The response word is the answer's data field. -/
theorem readResponse_toNat (wf : s.cfg.wellFormed = true) (i : Nat) :
    (readResponse (busReadValue s i)).toNat = chipAnswer s i % 2 ^ s.cfg.dataBits := by
  have narrow : chipAnswer s i % 2 ^ s.cfg.dataBits < 2 ^ 16 :=
    (Nat.mod_lt _ (by positivity)).trans_le (Nat.pow_le_pow_right two_pos (wf_dataBits wf))
  rw [readResponse, busReadValue, extractValue, mask, Nat.and_two_pow_sub_one_eq_mod, BitVec.zeroExtend,
    BitVec.toNat_setWidth, BitVec.toNat_ofNat, Nat.mod_eq_of_lt narrow]
  exact Nat.mod_eq_of_lt (narrow.trans (by decide))

theorem respond_busRead_eq (i : Nat) (w : Word) (s : State) :
    respond w (busRead i s) =
      { s with
        rspq := s.rspq ++ [w], draws := s.draws + 1
        events := s.events ++ [.busFrame (rframe s.cfg i) (chipAnswer s i), .resp w] } := by
  simp [respond, busRead, emit, countDraws]

/-- Settles O12: one read frame, whose answer splits at DATA_BITS into what the register holds and what is drawn. -/
theorem regReadResult : Obligations.RegReadResult := by
  intro s idx wf lt
  refine ⟨chipAnswer s idx.toNat, readResponse (busReadValue s idx.toNat), ?_, readResponse_toNat wf _,
    chipAnswer_lt wf _, ?_, fun drawn => ?_, fun v echo stored => ?_⟩
  · rw [exec_regRead_of_lt lt, respond_busRead_eq, rframe]
  · rw [chipAnswer_div, drawnFrame_eq_mod]
  · rw [chipAnswer_of_drawn drawn, drawnFrame_eq_mod]
  · rw [chipAnswer_of_echo echo stored, echoFrame_mod]

/-! ### REG_FLUSH (R205, R210) -/

/-- What a flush leaves as it was. -/
theorem flush_eq (l : List Nat) (s : State) :
    l.foldl flushOne s =
      { s with
        dirty := (l.foldl flushOne s).dirty, chipreg := (l.foldl flushOne s).chipreg
        events := (l.foldl flushOne s).events } := by
  obtain ⟨_, _, _, e, -⟩ := flush_frame l s
  rw [e]

theorem flush_dirty_length (l : List Nat) (s : State) : (l.foldl flushOne s).dirty.length = s.dirty.length := by
  induction l generalizing s with
  | nil => rfl
  | cons k l ih => rw [List.foldl_cons, ih, flushOne_dirty_length]

theorem flush_chipreg_length (l : List Nat) (s : State) : (l.foldl flushOne s).chipreg.length = s.chipreg.length := by
  induction l generalizing s with
  | nil => rfl
  | cons k l ih => rw [List.foldl_cons, ih, flushOne_chipreg_length]

theorem dirtyAt_flush (l : List Nat) (s : State) (i : Nat) :
    dirtyAt (l.foldl flushOne s) i = if i ∈ l then false else dirtyAt s i := by
  induction l generalizing s with
  | nil => rfl
  | cons k l ih =>
    rw [List.foldl_cons, ih, dirtyAt_flushOne]
    by_cases own : i = k <;> simp [own]

/-- A flush of distinct indices sends one frame per dirty one, in their order: no turn touches another's flag. -/
theorem flush_events {l : List Nat} (distinct : l.Nodup) (s : State) :
    (l.foldl flushOne s).events =
      s.events ++ (l.filter (dirtyAt s)).map fun i => .busFrame (wframe s.cfg i (cacheAt s i)) 0 := by
  induction l generalizing s with
  | nil => exact (List.append_nil _).symm
  | cons k l ih =>
    obtain ⟨fresh, distinct⟩ := List.nodup_cons.mp distinct
    have later : l.filter (dirtyAt (flushOne s k)) = l.filter (dirtyAt s) :=
      List.filter_congr fun i hi => by rw [dirtyAt_flushOne, if_neg (ne_of_mem_of_not_mem hi fresh)]
    rw [List.foldl_cons, ih distinct, flushOne_events, later]
    cases dirty : dirtyAt s k <;> simp [dirty]

/-- A register is written at its first turn, if it is dirty then; at any later turn it is clean. -/
theorem chipregAt_flush (l : List Nat) {s : State} {i : Nat} (inside : i < s.chipreg.length) :
    chipregAt (l.foldl flushOne s) i =
      if s.cfg.chipResponse = .echo ∧ i ∈ l ∧ dirtyAt s i = true then some (maskValue s.cfg (cacheAt s i))
      else chipregAt s i := by
  induction l generalizing s with
  | nil => simp
  | cons k l ih =>
    rw [List.foldl_cons, ih (by simpa using inside), dirtyAt_flushOne, chipregAt_flushOne s k i inside, flushOne_cfg,
      cacheAt_flushOne]
    by_cases own : i = k
    · subst own
      simp [and_comm]
    · simp [own]

/-- Settles O14: the flush's turns are those of the range below N_REGS, which ascends. -/
theorem regFlushResult : Obligations.RegFlushResult := by
  intro s
  refine ⟨_, rfl, ?_, flush_dirty_length _ s, flush_chipreg_length _ s, fun i => ?_, fun i inside => ?_⟩
  · rw [← flush_events List.nodup_range]
    exact flush_eq _ s
  · simp [dirtyAt_flush]
  · simp [chipregAt_flush _ inside]

/-! ### Write, flush, read back (R211) -/

/-- REG_SET leaves the masked value in the cache, changed or not, and keeps the agreement with the chip. -/
theorem exec_regSet_stored (shape : ShapeInv s) (agrees : ChipAgrees s) (lt : idx.toNat < s.cfg.nRegs)
    (val : BitVec 16) :
    ∃ a, exec (.regSet idx val) s = .next a ∧ a.cfg = s.cfg ∧ a.rspq = s.rspq ∧
      cacheAt a idx.toNat = maskValue s.cfg val ∧ ShapeInv a ∧ ChipAgrees a := by
  by_cases same : maskValue s.cfg val = cacheAt s idx.toNat
  · exact ⟨s, exec_regSet_of_eq lt same, rfl, rfl, same.symm, shape, agrees⟩
  · refine ⟨_, exec_regSet_of_ne lt same, rfl, rfl, ?_, (shape.setCache _ (maskValue_lt s.cfg val)).setDirty _ _,
      regSet_chipAgrees shape agrees lt _⟩
    rw [(regSet_at shape lt (maskValue s.cfg val) idx.toNat rfl).1, if_pos rfl]

/-- REG_FLUSH leaves in the ECHO chip what the cache holds, for a register flushed now or clean before. -/
theorem exec_regFlush_stored (shape : ShapeInv s) (agrees : ChipAgrees s) (echo : s.cfg.chipResponse = .echo)
    {i : Nat} (lt : i < s.cfg.nRegs) :
    ∃ b, exec .regFlush s = .next b ∧ b.cfg = s.cfg ∧ b.rspq = s.rspq ∧ dirtyAt b i = false ∧
      chipregAt b i = some (cacheAt s i) := by
  obtain ⟨b, run, frame, -, -, clean, -⟩ := regFlushResult s
  have cfg : b.cfg = s.cfg := by rw [frame]
  have cached : cacheAt b i = cacheAt s i := by rw [cacheAt, frame, cacheAt]
  have flag : dirtyAt b i = false := (clean i).trans (if_pos lt)
  have agreesAfter : ChipAgrees b := by
    cases run
    exact flush_chipAgrees _ shape agrees
  exact ⟨b, run, cfg, by rw [frame], flag, cached ▸ agreesAfter (cfg ▸ echo) i (cfg ▸ lt) flag⟩

/-- Settles O17: REG_SET puts the value in the cache, REG_FLUSH in the chip, and the chip echoes it. -/
theorem writeFlushReadBack : Obligations.WriteFlushReadBack := by
  intro s idx val wf echo shape agrees lt
  obtain ⟨a, set, cfgA, rspqA, cached, shapeA, agreesA⟩ := exec_regSet_stored shape agrees lt val
  obtain ⟨b, flush, cfgB, rspqB, clean, stored⟩ := exec_regFlush_stored shapeA agreesA (cfgA ▸ echo) (cfgA ▸ lt)
  have cfg : b.cfg = s.cfg := cfgB.trans cfgA
  obtain ⟨resp, w, read, word, -, -, -, echoed⟩ := regReadResult b idx (cfg ▸ wf) (cfg ▸ lt)
  refine ⟨a, b, _, w, set, flush, read, clean, clean, by rw [rspqB, rspqA], ?_⟩
  rw [word, echoed _ (cfg ▸ echo) stored, cached, cfg, maskValue_toNat, Nat.mod_mod]

end Sys2Proof.Machine
end

section
/-! The mode controller (spec/41_mode_control.md): the row SET_POWER drives, the outcomes of SET_MODE in the order of its
checks, and LINES, which nothing but drive_lines and a reset writes. -/

namespace Sys2Proof.Machine

variable {s t : State} {code : BitVec 4}

/-! ### SET_POWER (R221, R222) -/

theorem exec_setPower_of_code {p : Power} (names : powerOfCode code = some p) (s : State) :
    exec (.setPower code) s = .next { s with lines := finalLines p, events := s.events ++ lineEvents p } := by
  rw [exec, execSetPower, names, ← driveLines_eq]

/-- Settles O19: each legal code names one row of drive_lines, a reserved code none. -/
theorem setPowerResult : Obligations.SetPowerResult := by
  intro s code
  refine ⟨?_, ?_, ?_, ?_, fun reserved => exec_setPower_reserved reserved s⟩
  · rintro rfl; exact exec_setPower_of_code (p := .shutdown) rfl s
  · rintro rfl; exact exec_setPower_of_code (p := .standby) rfl s
  · rintro rfl; exact exec_setPower_of_code (p := .transmit) rfl s
  · rintro rfl; exact exec_setPower_of_code (p := .receive) rfl s

/-! ### The outcomes of SET_MODE (R230) -/

/-- The fault SET_MODE raises, by the first check that fails. -/
inductive SetModeFault (code : BitVec 4) (s : State) : FaultCode → Prop where
  | reserved (names : modeOfCode code = none) : SetModeFault code s .illegalOperand
  | uninitialized (m : Mode) (names : modeOfCode code = some m) (on : m ≠ .off) (unready : s.bufReady = false) :
      SetModeFault code s .notInitialized
  | overflow (names : modeOfCode code = some .tx) (ready : s.bufReady = true) (entry : s.mode ≠ .tx)
      (full : s.cfg.usbqDepth ≤ s.outq.length) : SetModeFault code s .queueOverflow

/-- What SET_MODE makes of a state. -/
inductive SetModeOutcome (code : BitVec 4) (s t : State) : Prop where
  | fault (f : FaultCode) (cause : SetModeFault code s f) (eq : t = raiseFault f (encode (.setMode code)) s)
  | same (names : modeOfCode code = some s.mode) (ready : s.mode ≠ .off → s.bufReady = true)
      (eq : t = { s with lines := finalLines (powerOf s.mode), events := s.events ++ lineEvents (powerOf s.mode) })
  | change (m : Mode) (names : modeOfCode code = some m) (ready : m ≠ .off → s.bufReady = true) (ne : m ≠ s.mode)
      (room : m = .tx → s.outq.length < s.cfg.usbqDepth) (eq : t = changeMode m s)

theorem exec_setMode_of_code {m : Mode} (names : modeOfCode code = some m) (s : State) :
    exec (.setMode code) s = .next (setModeTo m (encode (.setMode code)) s) := by
  rw [exec, execSetMode, names]

theorem setModeOutcome_of_exec (h : exec (.setMode code) s = .next t) : SetModeOutcome code s t := by
  cases names : modeOfCode code with
  | none =>
    rw [exec, execSetMode, names] at h
    cases h
    exact .fault _ (.reserved names) rfl
  | some m =>
    rw [exec_setMode_of_code names] at h
    cases h
    obtain ⟨on, unready, e⟩ | ⟨ready, rfl, entry, full, e⟩ | ⟨ready, rfl, e⟩ | ⟨ready, ne, room, e⟩ :=
      setModeTo_cases m (encode (.setMode code)) s
    · exact .fault _ (.uninitialized m names on unready) e
    · exact .fault _ (.overflow names (ready nofun) entry full) e
    · exact .same names ready e
    · exact .change m names ready ne room e

theorem setModeTo_of_ready {m : Mode} (ready : m ≠ .off → s.bufReady = true)
    (room : m = .tx → m ≠ s.mode → s.outq.length < s.cfg.usbqDepth) (w : Word) :
    setModeTo m w s = if m = s.mode then driveLines (powerOf m) s else changeMode m s := by
  have noOverflow : ¬ (m = .tx ∧ m ≠ s.mode ∧ queueFull s.cfg s.outq = true) := fun ⟨tx, ne, full⟩ =>
    (room tx ne).not_ge (of_decide_eq_true full)
  rw [setModeTo, if_neg (by simpa using ready), if_neg noOverflow]

theorem exec_setMode_of_fault {f : FaultCode} (cause : SetModeFault code s f) :
    exec (.setMode code) s = .next (raiseFault f (encode (.setMode code)) s) := by
  cases cause with
  | reserved names => rw [exec, execSetMode, names]
  | uninitialized m names on unready => rw [exec_setMode_of_code names, setModeTo, if_pos ⟨on, unready⟩]
  | overflow names ready entry full =>
    rw [exec_setMode_of_code names, setModeTo, if_neg (by simp [ready]), if_pos ⟨rfl, entry.symm, decide_eq_true full⟩]

/-- The outcomes are exactly what SET_MODE does. -/
theorem exec_setMode_iff : exec (.setMode code) s = .next t ↔ SetModeOutcome code s t := by
  refine ⟨setModeOutcome_of_exec, fun h => ?_⟩
  cases h with
  | fault f cause eq => rw [eq, exec_setMode_of_fault cause]
  | same names ready eq =>
    rw [eq, exec_setMode_of_code names, setModeTo_of_ready ready fun _ ne => absurd rfl ne, if_pos rfl, driveLines_eq]
  | change m names ready ne room eq =>
    rw [eq, exec_setMode_of_code names, setModeTo_of_ready ready fun tx _ => room tx, if_neg ne]

/-! ### Each outcome as a state (R232 to R237) -/

/-- Settles O23: the outcome of the current mode's own code. -/
theorem sameModeOnlyDrivesLines : Obligations.SameModeOnlyDrivesLines := fun _ _ names ready =>
  exec_setMode_iff.mpr (.same names ready rfl)

/-- Settles O24: OFF needs neither INIT nor room, so leaving a stream is always a change. -/
theorem setModeOffResult : Obligations.SetModeOffResult := fun s streaming =>
  exec_setMode_iff.mpr (.change .off rfl (absurd rfl) streaming.symm nofun (changeMode_off s).symm)

/-- Settles O25: CAP - RX_MARGIN fits OFFSET. -/
theorem setModeRxResult : Obligations.SetModeRxResult := fun s wf ne ready =>
  ⟨_, offset_toNat wf (Nat.sub_le ..),
    exec_setMode_iff.mpr (.change .rx rfl (fun _ => ready) ne.symm nofun (changeMode_rx s).symm)⟩

/-- Settles O26: CAP itself fits OFFSET. -/
theorem setModeTxResult : Obligations.SetModeTxResult := fun s wf ne ready room =>
  ⟨_, offset_toNat wf le_rfl,
    exec_setMode_iff.mpr (.change .tx rfl (fun _ => ready) ne.symm (fun _ => room) (changeMode_tx s).symm)⟩

/-- Settles O27: one cause per clause; OFF passes every check, whether it is the current mode or a change. -/
theorem setModeFaults : Obligations.SetModeFaults := by
  intro s code
  refine ⟨fun reserved => exec_setMode_reserved reserved s, ?_, ?_, ?_⟩
  · rintro (rfl | rfl) unready
    · exact exec_setMode_of_fault (.uninitialized .rx rfl nofun unready)
    · exact exec_setMode_of_fault (.uninitialized .tx rfl nofun unready)
  · rintro rfl ready entry full
    exact exec_setMode_of_fault (.overflow rfl ready entry full)
  · by_cases off : s.mode = .off
    · exact ⟨_, sameModeOnlyDrivesLines s 0 (off ▸ rfl) (absurd off), rfl, rfl, rfl⟩
    · exact ⟨_, setModeOffResult s off, rfl, rfl, rfl⟩

/-! ### The lines after SET_MODE, and a SET_MODE repeated (R226, R241) -/

@[simp] theorem changeMode_mode (m : Mode) (s : State) : (changeMode m s).mode = m := by
  cases m <;> rfl

@[simp] theorem changeMode_bufReady (m : Mode) (s : State) : (changeMode m s).bufReady = s.bufReady := by
  cases m <;> rfl

@[simp] theorem changeMode_lines (m : Mode) (s : State) : (changeMode m s).lines = finalLines (powerOf m) := by
  cases m with
  | off => rw [changeMode_off]; rfl
  | rx => rw [changeMode_rx]; rfl
  | tx => rw [changeMode_tx]; rfl

/-- A SET_MODE that does not fault ends in the mode it names, with that mode's lines, and could be given again. -/
theorem SetModeOutcome.fault_or_in_mode (h : SetModeOutcome code s t) :
    (∃ f, SetModeFault code s f ∧ t = raiseFault f (encode (.setMode code)) s) ∨
      (modeOfCode code = some t.mode ∧ (t.mode ≠ .off → t.bufReady = true) ∧ t.lines = finalLines (powerOf t.mode)) := by
  cases h with
  | fault f cause eq => exact .inl ⟨f, cause, eq⟩
  | same names ready eq => subst eq; exact .inr ⟨names, ready, rfl⟩
  | change m names ready _ _ eq =>
    subst eq
    exact .inr (by simpa using ⟨names, ready⟩)

/-- Settles O28: a SET_MODE that does not fault ends with its mode's lines. -/
theorem linesEncodeModePower : Obligations.LinesEncodeModePower := by
  intro s t code run noFault
  obtain ⟨f, -, e⟩ | ⟨-, -, lines⟩ := (setModeOutcome_of_exec run).fault_or_in_mode
  · exact absurd e (noFault f _)
  · rw [lines]
    cases t.mode <;> rfl

/-- The checks of SET_MODE read nothing that a fault writes. -/
theorem SetModeFault.after_raiseFault {f : FaultCode} (cause : SetModeFault code s f) (g : FaultCode) (w : Word) :
    SetModeFault code (raiseFault g w s) f := by
  cases cause with
  | reserved names => exact .reserved names
  | uninitialized m names on unready => exact .uninitialized m names on unready
  | overflow names ready entry full => exact .overflow names ready entry full

/-- Settles O29: after a fault the same check fails again, and after a success the mode is the current one. -/
theorem setModeIdempotent : Obligations.SetModeIdempotent := by
  intro s t code run
  obtain ⟨f, cause, rfl⟩ | ⟨names, ready, lines⟩ := (setModeOutcome_of_exec run).fault_or_in_mode
  · exact ⟨_, exec_setMode_of_fault (cause.after_raiseFault f _), rfl, rfl, rfl, rfl, rfl, rfl, rfl⟩
  · exact ⟨_, sameModeOnlyDrivesLines t code names ready, lines.symm, rfl, rfl, rfl, rfl, rfl, rfl⟩

/-! ### Mutual exclusion (R223) -/

/-- Any first writes of drive_lines leave legal lines: fewer than three case by case, all three as the final lines. -/
theorem legalLines_after_take (l : BitVec 3) (p : Power) (k : Nat) (legal : legalLines l = true) :
    legalLines (((lineWrites p).take k).foldl (fun l w => setLine w.1 w.2 l) l) = true := by
  have three : (lineWrites p).length = 3 := by cases p <;> rfl
  obtain done | proper := le_or_gt 3 k
  · rw [List.take_of_length_le (three.trans_le done), lines_after_writes]
    exact finalLines_legal p
  · have every : ∀ k < 3, ∀ l, legalLines l = true →
        legalLines (((lineWrites p).take k).foldl (fun l w => setLine w.1 w.2 l) l) = true := by
      cases p <;> decide
    exact every k proper l legal

/-- LINES are as they were, or as a complete drive_lines leaves them. -/
def LinesKeptOrDriven (s t : State) : Prop := t.lines = s.lines ∨ ∃ p, t.lines = finalLines p

theorem Scheduled.lines_eq {h : Half} (sched : Scheduled h s t) : t.lines = s.lines := by
  cases sched with
  | rx _ _ eq | tx _ _ eq => subst eq; rfl

theorem completeDescriptor_lines (d : Descriptor) (s : State) : (completeDescriptor d s).lines = s.lines := by
  obtain ⟨-, -, -, _, _, _, -, e⟩ | ⟨-, e⟩ := completeDescriptor_cases d s
  · rw [e]
  · rw [e]

/-- Of the commands only SET_POWER and SET_MODE write LINES, each by drive_lines. -/
theorem Effect.lines_keptOrDriven {i : Instr} (h : Effect i s t) : LinesKeptOrDriven s t := by
  cases effect_side h with
  | fault _ _ eq | ready eq | pass _ _ _ eq => subst eq; exact .inl rfl
  | lines p eq => subst eq; exact .inr ⟨p, rfl⟩
  | change m _ _ eq => subst eq; exact .inr ⟨powerOf m, changeMode_lines m s⟩
  | registers side =>
    obtain ⟨_, _, _, _, _, _, -, rfl⟩ := side
    exact .inl rfl
  | schedule _ _ _ _ u sched eq => subst eq; exact .inl sched.lines_eq

/-- No move but a command or a reset writes LINES, and a reset leaves those of SHUTDOWN. -/
theorem Move.lines_keptOrDriven {turn : Turn} (h : Move turn s t) : LinesKeptOrDriven s t := by
  cases h with
  | stay eq | badWord _ _ _ _ _ eq | overflow _ eq | pass _ eq | push _ _ eq | pop eq => subst eq; exact .inl rfl
  | command i w rest _ _ _ _ effect => exact effect.lines_keptOrDriven
  | schedule _ _ sched => exact .inl sched.lines_eq
  | tick samples _ _ eq =>
    obtain ⟨_, _, _, _, _, e, -⟩ := tickData_frame samples s.offset.toNat (halfOf s.cfg s.offset.toNat) s
    rw [e] at eq
    subst eq
    exact .inl rfl
  | usbIn d rest _ eq => subst eq; exact .inl (completeDescriptor_lines d _)
  | usbOut given d rest _ eq => subst eq; exact .inl (completeDescriptor_lines d _)
  | reset _ eq => subst eq; exact .inr ⟨.shutdown, rfl⟩

/-- Settles O20: a step keeps LINES or leaves a final state of drive_lines, which is legal. -/
theorem linesMutuallyExclusive : Obligations.LinesMutuallyExclusive := by
  refine ⟨legalLines_after_take, fun _ => rfl, fun s t run legal => ?_⟩
  obtain ⟨-, move⟩ := step_move run
  obtain kept | ⟨p, driven⟩ := move.lines_keptOrDriven
  · rw [kept]; exact legal
  · rw [driven]; exact finalLines_legal p

end Sys2Proof.Machine
end

section
/-! The queues and the alternation of SCHED_STEP over every step (spec/42_stream.md R303, R315). -/

namespace Sys2Proof.Machine

/-- Settles O54: each move keeps the queues, and dropping the turn writes none of them. -/
theorem queueInvariantKept : Obligations.QueueInvariantKept := by
  intro s t inv h
  obtain ⟨-, move⟩ := step_move h
  exact move.queueInv { inv with }

/-- Settles O57: each move keeps alternation, and dropping the turn writes neither the history nor PHASE. -/
theorem alternationKept : Obligations.AlternationKept := by
  intro s t inv h
  obtain ⟨-, move⟩ := step_move h
  exact move.alternationInv { inv with }

end Sys2Proof.Machine
end

section
/-! INIT and SCHED_STEP (spec/42_stream.md R270, R280 to R284): each outcome of either step, and the queue and the half it
reads. -/

namespace Sys2Proof.Machine

variable {s : State}

/-! ### INIT (R270) -/

/-- Settles O30: INIT's one check. -/
theorem initResult : Obligations.InitResult := fun _ =>
  ⟨fun unready => if_neg (by simp [unready]), fun ready => if_pos ready⟩

/-! ### The half owed and the queue of the mode (R280 to R282) -/

theorem owedHalf0_iff : owedHalf0 s = true ↔ s.cfg.half ≤ s.offset.toNat ∧ s.phase = 1 := by
  simp [owedHalf0]

theorem owedHalf1_iff : owedHalf1 s = true ↔ s.offset.toNat < s.cfg.half ∧ s.phase = 0 := by
  simp [owedHalf1]

theorem not_owedHalf0 (h : s.offset.toNat < s.cfg.half ∨ s.phase = 0) : ¬ owedHalf0 s = true := by
  rw [owedHalf0_iff]
  rintro ⟨le, phase⟩
  obtain lt | zero := h
  · exact le.not_gt lt
  · exact absurd (zero.symm.trans phase) (by decide)

theorem not_owedHalf1 (h : s.cfg.half ≤ s.offset.toNat ∨ s.phase = 1) : ¬ owedHalf1 s = true := by
  rw [owedHalf1_iff]
  rintro ⟨lt, phase⟩
  obtain le | one := h
  · exact le.not_gt lt
  · exact absurd (phase.symm.trans one) (by decide)

/-- The queue that SCHED_STEP pushes to is full. -/
abbrev StreamQueueFull (s : State) : Prop := queueFull s.cfg (queueOf s (dirOf s.mode)) = true

theorem streamQueueFull_rx (rx : s.mode = .rx) : StreamQueueFull s ↔ s.cfg.usbqDepth ≤ s.inq.length := by
  simp [StreamQueueFull, queueFull, queueOf, dirOf, rx]

theorem streamQueueFull_tx (tx : s.mode = .tx) : StreamQueueFull s ↔ s.cfg.usbqDepth ≤ s.outq.length := by
  simp [StreamQueueFull, queueFull, queueOf, dirOf, tx]

theorem streamQueueFull_of_mode
    (full : (s.mode = .rx ∧ s.cfg.usbqDepth ≤ s.inq.length) ∨ (s.mode = .tx ∧ s.cfg.usbqDepth ≤ s.outq.length)) :
    StreamQueueFull s := by
  obtain ⟨rx, le⟩ | ⟨tx, le⟩ := full
  · exact (streamQueueFull_rx rx).mpr le
  · exact (streamQueueFull_tx tx).mpr le

/-! ### Step 1 (R280, R284) -/

theorem exec_schedStep_of_unready (unready : s.bufReady = false) :
    exec .schedStep s = .next (raiseFault .notInitialized (encode .schedStep) s) := if_pos unready

theorem exec_schedStep_of_off (ready : s.bufReady = true) (off : s.mode = .off) :
    exec .schedStep s = .next (raiseFault .streamOff (encode .schedStep) s) := by
  rw [exec, execSchedStep, if_neg (by simp [ready]), if_pos off]

theorem exec_schedStep_of_fillPending (ready : s.bufReady = true) (on : s.mode ≠ .off) (pending : s.fillPending = true) :
    exec .schedStep s = .next (raiseFault .fillPending (encode .schedStep) s) := by
  rw [exec, execSchedStep, if_neg (by simp [ready]), if_neg on, if_pos pending]

/-- Past its first three checks step 1 looks at the half owed, then at the queue. -/
theorem exec_schedStep_of_running (ready : s.bufReady = true) (on : s.mode ≠ .off) (running : s.fillPending = false) :
    exec .schedStep s =
      if owedHalf0 s then
        if StreamQueueFull s then .next (raiseFault .queueOverflow (encode .schedStep) s)
        else .next { scheduleHalf 0 s with seq := .step2 }
      else .next { s with seq := .step2 } := by
  rw [exec, execSchedStep, if_neg (by simp [ready]), if_neg on, if_neg (by simp [running])]

/-- Settles O33: the first three checks of step 1, in order. -/
theorem schedStepFaults : Obligations.SchedStepFaults := fun _ =>
  ⟨exec_schedStep_of_unready, exec_schedStep_of_off, exec_schedStep_of_fillPending⟩

/-- Settles O31: the queue of the mode has room, or half 0 is not owed. -/
theorem schedStepFirst : Obligations.SchedStepFirst := by
  intro s ready running
  refine ⟨fun rx le phase room => ?_, fun tx le phase room => ?_, fun on idle => ?_⟩
  · rw [exec_schedStep_of_running ready (by simp [rx]) running, if_pos (owedHalf0_iff.mpr ⟨le, phase⟩),
      if_neg ((streamQueueFull_rx rx).not.mpr room.not_ge), scheduleHalf_rx 0 s rx]
    rfl
  · rw [exec_schedStep_of_running ready (by simp [tx]) running, if_pos (owedHalf0_iff.mpr ⟨le, phase⟩),
      if_neg ((streamQueueFull_tx tx).not.mpr room.not_ge), scheduleHalf_tx 0 s (by simp [tx])]
    rfl
  · rw [exec_schedStep_of_running ready on running, if_neg (not_owedHalf0 idle)]

/-! ### Step 2 (R281) -/

theorem step_of_step2 (wf : s.cfg.wellFormed = true) (turn : nextTurn s = .sequencer) (second : s.seq = .step2) :
    step s = .next (schedStepSecond (dropTurn s)) := by
  rw [step_eq_of_wf wf, turn, takeTurn, sequencerStep, dropTurn_seq, second]

theorem schedStepSecond_of_full (owed : owedHalf1 s = true) (full : StreamQueueFull s) :
    schedStepSecond s = raiseFault .queueOverflow (encode .schedStep) { s with seq := .idle } := by
  rw [schedStepSecond, if_pos owed, if_pos full]

theorem schedStepSecond_of_room (owed : owedHalf1 s = true) (room : ¬ StreamQueueFull s) :
    schedStepSecond s = scheduleHalf 1 { s with seq := .idle } := by
  rw [schedStepSecond, if_pos owed, if_neg room]

theorem schedStepSecond_of_not_owed (idle : ¬ owedHalf1 s = true) : schedStepSecond s = { s with seq := .idle } :=
  if_neg idle

/-- Settles O32: the queue of the mode has room, or half 1 is not owed. (The obligation's own name is the model's.) -/
theorem schedStepSecondResult : Obligations.SchedStepSecond := by
  intro s wf turn second
  rw [step_of_step2 wf turn second]
  refine ⟨fun rx lt phase room => ?_, fun tx lt phase room => ?_, fun idle => ?_⟩
  · rw [schedStepSecond_of_room (s := dropTurn s) (owedHalf1_iff.mpr ⟨lt, phase⟩)
      ((streamQueueFull_rx (s := dropTurn s) rx).not.mpr room.not_ge), scheduleHalf_rx 1 _ (by simp [rx])]
    rfl
  · rw [schedStepSecond_of_room (s := dropTurn s) (owedHalf1_iff.mpr ⟨lt, phase⟩)
      ((streamQueueFull_tx (s := dropTurn s) tx).not.mpr room.not_ge), scheduleHalf_tx 1 _ (by simp [tx])]
    rfl
  · rw [schedStepSecond_of_not_owed (s := dropTurn s) (not_owedHalf1 (s := dropTurn s) idle)]
    rfl

/-! ### A full queue (R282) -/

/-- Settles O34: each scheduling action looks at its queue before it writes anything; the fault of step 2 leaves nothing of
the return to IDLE. -/
theorem queueOverflowFaults : Obligations.QueueOverflowFaults := by
  intro s
  refine ⟨fun ready running le phase full => ?_, fun wf turn second lt phase full => ?_, fun ready entry full => ?_⟩
  · have on : s.mode ≠ .off := by rcases full with ⟨m, -⟩ | ⟨m, -⟩ <;> simp [m]
    rw [exec_schedStep_of_running ready on running, if_pos (owedHalf0_iff.mpr ⟨le, phase⟩),
      if_pos (streamQueueFull_of_mode full)]
    rfl
  · rw [step_of_step2 wf turn second, schedStepSecond_of_full (s := dropTurn s) (owedHalf1_iff.mpr ⟨lt, phase⟩)
      (streamQueueFull_of_mode (s := dropTurn s) full)]
    rfl
  · exact exec_setMode_of_fault (.overflow rfl ready entry full)

end Sys2Proof.Machine
end

section
/-! The Sequencer's turn on the command port (spec/42_stream.md R261, R262, R283): the word it runs, the word it holds, and
what no agent does between the two steps of a SCHED_STEP. -/

namespace Sys2Proof.Machine

variable {s t u : State} {w : Word} {rest : List Word}

/-- Settles O8: a word that is taken is decoded and executed where its turn and its word are gone. -/
theorem stepRunsTheDecodedCommand : Obligations.StepRunsTheDecodedCommand := fun _ _ _ _ takes decoded =>
  (step_of_takes takes).trans (runWord_of_instr decoded)

/-! ### The response hold (R261) -/

theorem responseProducing_of_opcode (h : w.toNat / 2 ^ 28 ∈ [0x3, 0x5, 0x7, 0xB, 0xC]) : responseProducing w = true := by
  simp only [List.mem_cons, List.not_mem_nil, or_false] at h
  rcases h with h | h | h | h | h <;> rw [responseProducing, opcodeOf_eq_of_toNat h] <;> rfl

theorem idleStep_of_held (head : s.cmdq = w :: rest) (held : heldBack w s = true) : idleStep s = .next s := by
  simp [idleStep, head, held]

theorem rspFull_iff : rspFull s = true ↔ s.cfg.rspDepth ≤ s.rspq.length := decide_eq_true_iff

/-- A pop makes room in a full RSPQ, whose depth is at least 1. -/
theorem rspFull_hostPopStep (wf : s.cfg.wellFormed = true) (full : s.rspq.length = s.cfg.rspDepth) :
    rspFull (hostPopStep s) = false := by
  obtain ⟨-, -, -, -, -, -, -, -, -, -, depth⟩ := wf_stream wf
  have popped : (hostPopStep s).rspq.length = s.rspq.length - 1 := List.length_tail
  rw [Bool.eq_false_iff, ne_eq, rspFull_iff, popped]
  exact (show s.rspq.length - 1 < s.cfg.rspDepth by omega).not_ge

/-- Settles O9: the opcode field alone decides that the word is held, and the room a pop makes lifts the hold. -/
theorem responseHold : Obligations.ResponseHold := by
  intro s w rest wf turn idle head opcode full
  have held : heldBack w s = true := by
    rw [heldBack, responseProducing_of_opcode (by simpa using opcode), rspFull_iff.mpr full.ge]
    rfl
  constructor
  · rw [step_eq_of_wf wf, turn, takeTurn, sequencerStep_of_idle (s := dropTurn s) idle]
    exact idleStep_of_held (s := dropTurn s) head held
  · rw [heldBack, rspFull_hostPopStep wf full, Bool.and_false]

/-! ### Between the two steps of a SCHED_STEP (R283) -/

/-- CMDQ keeps every word, and no Cmd is recorded. -/
structure TakesNoCommand (s t : State) : Prop where
  cmdq : ∃ more, t.cmdq = s.cmdq ++ more
  events : ∃ new, t.events = s.events ++ new ∧ ∀ w, Event.cmd w ∉ new

theorem TakesNoCommand.of_events (new : List Event) (events : t.events = s.events ++ new) (noCmd : ∀ w, Event.cmd w ∉ new)
    (cmdq : t.cmdq = s.cmdq) : TakesNoCommand s t :=
  ⟨⟨[], by rw [cmdq, List.append_nil]⟩, new, events, noCmd⟩

theorem TakesNoCommand.of_push (more : List Word) (cmdq : t.cmdq = s.cmdq ++ more) (events : t.events = s.events) :
    TakesNoCommand s t :=
  ⟨⟨more, cmdq⟩, [], by rw [events, List.append_nil], nofun⟩

theorem TakesNoCommand.refl (s : State) : TakesNoCommand s s := .of_push [] (List.append_nil _).symm rfl

theorem TakesNoCommand.trans (hu : TakesNoCommand s u) (ht : TakesNoCommand u t) : TakesNoCommand s t := by
  obtain ⟨⟨more, cmdq⟩, new, events, noCmd⟩ := hu
  obtain ⟨⟨more', cmdq'⟩, new', events', noCmd'⟩ := ht
  exact ⟨⟨more ++ more', by rw [cmdq', cmdq, List.append_assoc]⟩, new ++ new',
    by rw [events', events, List.append_assoc], fun w => by simp [noCmd w, noCmd' w]⟩

theorem Scheduled.takesNoCommand {h : Half} (sched : Scheduled h s t) : TakesNoCommand s t := by
  cases sched with
  | rx _ _ eq => subst eq; exact .of_events [.schedule _] rfl (by simp) rfl
  | tx _ _ eq => subst eq; exact .of_events [.schedule _] rfl (by simp) rfl

theorem Scheduled.offset {h : Half} (sched : Scheduled h s t) : t.offset = s.offset := by
  cases sched with
  | rx _ _ eq | tx _ _ eq => subst eq; rfl

/-- Step 2 leaves STEP2 and OFFSET alone, and takes no command. -/
theorem schedStepSecond_frame (s : State) :
    (schedStepSecond s).seq ≠ .step2 ∧ (schedStepSecond s).offset = s.offset ∧
      TakesNoCommand s (schedStepSecond s) := by
  obtain e | ⟨-, sched⟩ | ⟨-, e⟩ := schedStepSecond_cases s
  · rw [e]; exact ⟨nofun, rfl, .of_events [.fault _ _] rfl (by simp) rfl⟩
  · refine ⟨by rw [sched.control.seq]; exact nofun, sched.offset, ?_⟩
    exact .trans (u := { s with seq := .idle }) (.of_push [] (List.append_nil _).symm rfl) sched.takesNoCommand
  · rw [e]; exact ⟨nofun, rfl, .of_push [] (List.append_nil _).symm rfl⟩

/-- SEQ is kept, and no command is taken: all that an agent other than the Sequencer and reset does to the command port. -/
def LeavesSequencer (s t : State) : Prop := t.seq = s.seq ∧ TakesNoCommand s t

theorem tickData_leavesSequencer (samples : List Byte) (o : Nat) (h : Half) (s : State) :
    LeavesSequencer s (tickData samples o h s) := by
  cases hm : s.mode with
  | off => rw [tickData_of_off hm]; exact ⟨rfl, .refl s⟩
  | rx =>
    simp only [tickData, hm, tickRx_eq, List.append_assoc]
    exact ⟨rfl, .of_events _ rfl (fun w => by split <;> simp) rfl⟩
  | tx =>
    simp only [tickData, hm, tickTx_eq]
    exact ⟨rfl, .of_events _ rfl (fun w => by split <;> simp) rfl⟩

theorem completeDescriptor_leavesSequencer (d : Descriptor) (s : State) : LeavesSequencer s (completeDescriptor d s) := by
  cases acts : completionActs d s with
  | true => rw [completeDescriptor_acts acts]; exact ⟨rfl, .of_events _ rfl (by simp) rfl⟩
  | false => rw [completeDescriptor_idle acts]; exact ⟨rfl, .of_events [.complete d false] rfl (by simp) rfl⟩

theorem LeavesSequencer.after_event (h : LeavesSequencer u t) (e : Event) (noCmd : ∀ w, e ≠ .cmd w) (seq : u.seq = s.seq)
    (events : u.events = s.events ++ [e]) (cmdq : u.cmdq = s.cmdq) : LeavesSequencer s t := by
  obtain ⟨seq', keeps⟩ := h
  refine ⟨seq'.trans seq, .trans (.of_events [e] events (fun w => ?_) cmdq) keeps⟩
  simpa using (noCmd w).symm

theorem usbInStep_leavesSequencer (s : State) : LeavesSequencer s (usbInStep s) := by
  obtain ⟨-, e⟩ | ⟨d, rest, -, e⟩ := usbInStep_cases s
  · rw [e]; exact ⟨rfl, .refl s⟩
  · rw [e]; exact (completeDescriptor_leavesSequencer d _).after_event (.hostRx d _) nofun rfl rfl rfl

theorem usbOutStep_leavesSequencer (given : List Byte) (s : State) : LeavesSequencer s (usbOutStep given s) := by
  obtain ⟨-, e⟩ | ⟨d, rest, -, e⟩ := usbOutStep_cases given s
  · rw [e]; exact ⟨rfl, .refl s⟩
  · rw [e]; exact (completeDescriptor_leavesSequencer d _).after_event (.hostTx d _) nofun rfl rfl rfl

theorem hostPushStep_leavesSequencer (w : Word) (s : State) : LeavesSequencer s (hostPushStep w s) := by
  obtain e | ⟨-, e⟩ := hostPushStep_cases w s
  · rw [e]; exact ⟨rfl, .refl s⟩
  · rw [e]; exact ⟨rfl, .of_push [w] rfl rfl⟩

theorem tickStep_leavesSequencer {samples : List Byte} (run : tickStep samples s = .next t) : LeavesSequencer s t := by
  obtain rfl | ⟨-, -, rfl⟩ := tickStep_cases run
  · exact ⟨rfl, .refl _⟩
  · obtain ⟨seq, cmdq, events⟩ := tickData_leavesSequencer samples s.offset.toNat (halfOf s.cfg s.offset.toNat) s
    exact ⟨seq, cmdq, events⟩

theorem takeTurn_leavesSequencer {turn : Turn} (run : takeTurn turn s = .next t) (agent : turn ≠ .sequencer)
    (noReset : turn ≠ .hostReset) : LeavesSequencer s t := by
  cases turn with
  | sequencer => exact absurd rfl agent
  | tick samples => exact tickStep_leavesSequencer run
  | usbIn => cases run; exact usbInStep_leavesSequencer s
  | usbOut given => cases run; exact usbOutStep_leavesSequencer given s
  | hostPush w => cases run; exact hostPushStep_leavesSequencer w s
  | hostPop => cases run; exact ⟨rfl, .of_push [] (List.append_nil _).symm rfl⟩
  | hostReset => exact absurd rfl noReset

/-- Settles O10: the Sequencer's turn is step 2, and no other agent touches SEQ or takes a command. -/
theorem noCommandBetweenSchedSteps : Obligations.NoCommandBetweenSchedSteps := by
  intro s t run second noReset
  obtain ⟨wf, turnRun⟩ := step_next run
  by_cases turn : nextTurn s = .sequencer
  · rw [step_of_step2 wf turn second] at run
    cases run
    obtain ⟨seq, offset, cmdq, events⟩ := schedStepSecond_frame (dropTurn s)
    exact ⟨cmdq, events, fun _ => ⟨seq, offset⟩, fun agent => absurd turn agent⟩
  · obtain ⟨seq, cmdq, events⟩ := takeTurn_leavesSequencer turnRun turn noReset
    exact ⟨cmdq, events, fun own => absurd own turn, fun _ => seq.trans second⟩

end Sys2Proof.Machine
end

section
/-! The sample clock's tick (spec/42_stream.md R310 to R312): the state after it in RX and in TX, and what an xrun adds. -/

namespace Sys2Proof.Machine

variable {s : State} {samples : List Byte}

theorem halfInFlight_iff {q : List Descriptor} {h : Half} : halfInFlight q h = true ↔ ∃ d ∈ q, d.half = h := by
  simp [halfInFlight]

theorem halfInFlight_eq_false {q : List Descriptor} {h : Half} (none : ∀ d ∈ q, d.half ≠ h) :
    halfInFlight q h = false := by
  simpa [halfInFlight] using none

theorem taintHalf_eq (q : List Descriptor) (h : Half) :
    taintHalf q h = q.map fun d => if d.half = h then { d with tainted := true } else d := by
  simp [taintHalf]

theorem bumpXrun_toNat (n : BitVec 32) : (bumpXrun n).toNat = min (n.toNat + 1) (2 ^ 32 - 1) := by
  rw [bumpXrun, BitVec.toNat_ofNat]
  omega

/-- Exactly as many bytes as are asked for are taken as they are. -/
theorem suppliedBytes_of_length {given : List Byte} {n : Nat} (len : given.length = n) (k : Nat) :
    suppliedBytes k n given = given := by
  rw [← len, suppliedBytes_exact]

/-- What an address holds after the supplied bytes are written. -/
theorem byteAt_memWrite_supplied (m : Memory) (a k n : Nat) (given : List Byte) (i : Nat) :
    byteAt (memWrite m a (suppliedBytes k n given)) i =
      if a ≤ i ∧ i < a + n then (suppliedBytes k n given)[i - a]? else byteAt m i := by
  rw [byteAt_memWrite, suppliedBytes_length]

/-! ### The enabled tick (R310) -/

theorem tickData_of_rx (rx : s.mode = .rx) (o : Nat) (h : Half) : tickData samples o h s = tickRx samples o h s := by
  rw [tickData, rx]

theorem tickData_of_tx (tx : s.mode = .tx) (o : Nat) (h : Half) : tickData samples o h s = tickTx o h s := by
  rw [tickData, tx]

section
variable (wf : s.cfg.wellFormed = true) (turn : nextTurn s = .tick samples) (on : s.clkEn = true)
  (inside : s.offset.toNat < s.cfg.cap)
include wf turn on inside

theorem step_of_tick :
    step s = .next { tickData samples s.offset.toNat (halfOf s.cfg s.offset.toNat) (dropTurn s) with
                     offset := nextOffset s.cfg s.offset.toNat } := by
  rw [step_eq_of_wf wf, turn, takeTurn, tickStep, if_neg (by simp [on]), if_neg (by simpa using inside)]
  rfl

theorem step_of_tick_rx (rx : s.mode = .rx) :
    step s = .next
      { s with
        agenda := s.agenda.tail, offset := nextOffset s.cfg s.offset.toNat
        buf := memWrite s.buf s.offset.toNat (suppliedBytes s.draws s.cfg.tickBytes samples)
        draws := s.draws + s.cfg.tickBytes
        xrunCount := if halfInFlight s.inq (halfOf s.cfg s.offset.toNat) then bumpXrun s.xrunCount else s.xrunCount
        inq := if halfInFlight s.inq (halfOf s.cfg s.offset.toNat) then taintHalf s.inq (halfOf s.cfg s.offset.toNat)
          else s.inq
        events := s.events ++ [.portIn s.offset.toNat (suppliedBytes s.draws s.cfg.tickBytes samples)] ++
          if halfInFlight s.inq (halfOf s.cfg s.offset.toNat) then
            [.xrun s.offset.toNat (halfOf s.cfg s.offset.toNat)] else [] } := by
  rw [step_of_tick wf turn on inside, tickData_of_rx (s := dropTurn s) rx, tickRx_eq]
  rfl

theorem step_of_tick_tx (tx : s.mode = .tx) :
    step s = .next
      { s with
        agenda := s.agenda.tail, offset := nextOffset s.cfg s.offset.toNat, draws := s.draws + s.cfg.tickBytes
        xrunCount := if halfInFlight s.outq (halfOf s.cfg s.offset.toNat) then bumpXrun s.xrunCount else s.xrunCount
        events := s.events ++
          if halfInFlight s.outq (halfOf s.cfg s.offset.toNat) then
            [.xrun s.offset.toNat (halfOf s.cfg s.offset.toNat),
              .portOut s.offset.toNat (drawBytes s.draws s.cfg.tickBytes)]
          else [.portOut s.offset.toNat (memRead s.buf s.draws s.offset.toNat s.cfg.tickBytes)] } := by
  rw [step_of_tick wf turn on inside, tickData_of_tx (s := dropTurn s) tx, tickTx_eq]
  rfl

end

/-- Settles O37: the half in flight decides between the tick with its xrun and the plain one. -/
theorem rxTick : Obligations.RxTick := by
  intro s samples wf turn on rx inside
  refine ⟨_, suppliedBytes s.draws s.cfg.tickBytes samples, halfOf s.cfg s.offset.toNat,
    step_of_tick_rx wf turn on inside rx, suppliedBytes_length .., fun len => suppliedBytes_of_length len _, rfl,
    byteAt_memWrite_supplied _ _ _ _ _, nextOffset_toNat wf _, fun flight => ?_, fun clear => ?_⟩
  · have xrun := halfInFlight_iff.mpr flight
    exact ⟨by simp [xrun, taintHalf_eq], by simp [xrun, bumpXrun_toNat]⟩
  · simp [halfInFlight_eq_false clear]

/-- Settles O38: on an xrun the bytes sent are draws, and without one the buffer's. -/
theorem txTick : Obligations.TxTick := by
  intro s samples wf turn on tx inside
  have run := step_of_tick_tx wf turn on inside tx
  cases xrun : halfInFlight s.outq (halfOf s.cfg s.offset.toNat) with
  | true =>
    simp only [xrun, if_true] at run
    refine ⟨_, _, halfOf s.cfg s.offset.toNat, run, drawBytes_length s.draws s.cfg.tickBytes, rfl,
      nextOffset_toNat wf _, fun _ => ⟨rfl, bumpXrun_toNat _, rfl⟩, fun clear => ?_⟩
    exact absurd (xrun.symm.trans (halfInFlight_eq_false clear)) nofun
  | false =>
    simp only [xrun, Bool.false_eq_true, if_false] at run
    refine ⟨_, _, halfOf s.cfg s.offset.toNat, run, memRead_length s.buf s.draws s.offset.toNat s.cfg.tickBytes, rfl,
      nextOffset_toNat wf _, fun flight => ?_, fun _ => ⟨rfl, fun j v => memRead_defined _ _ _ _ j v⟩⟩
    exact absurd (xrun.symm.trans (halfInFlight_iff.mpr flight)) nofun

end Sys2Proof.Machine
end

section
/-! The USB completions (spec/42_stream.md R300 to R304, R314): the step of each queue's head, the initial fill with its
priming words, and the only start of the clock in TRANSMIT. -/

namespace Sys2Proof.Machine

variable {s t : State} {d : Descriptor} {rest : List Descriptor} {given : List Byte}

theorem step_of_usbIn (wf : s.cfg.wellFormed = true) (turn : nextTurn s = .usbIn) (head : s.inq = d :: rest) :
    step s = .next (completeDescriptor d (inDelivered d rest (dropTurn s))) := by
  rw [step_eq_of_wf wf, turn, takeTurn, usbInStep, dropTurn_inq, head]
  rfl

theorem step_of_usbOut (wf : s.cfg.wellFormed = true) (turn : nextTurn s = .usbOut given) (head : s.outq = d :: rest) :
    step s = .next (completeDescriptor d (outDelivered given d rest (dropTurn s))) := by
  rw [step_eq_of_wf wf, turn, takeTurn, usbOutStep, dropTurn_outq, head]
  rfl

/-- A stale descriptor or one without the notification does not act. -/
theorem completionActs_eq_false (h : d.epoch ≠ s.epoch ∨ d.kind = .stream) : completionActs d s = false := by
  rw [Bool.eq_false_iff, ne_eq, completionActs_iff]
  rintro ⟨epoch, kind, -⟩
  obtain stale | stream := h
  · exact stale epoch
  · exact absurd (stream.symm.trans kind) nofun

/-! ### IN completions (R300) -/

theorem inBytes_of_tainted (tainted : d.tainted = true) : inBytes d s = drawBytes s.draws s.cfg.half := if_pos tainted

theorem inBytes_of_clean (clean : d.tainted = false) :
    inBytes d s = memRead s.buf s.draws (halfBase s.cfg d.half) s.cfg.half := if_neg (by simp [clean])

theorem inBytes_length (d : Descriptor) (s : State) : (inBytes d s).length = s.cfg.half := by
  cases tainted : d.tainted with
  | true => rw [inBytes_of_tainted tainted, drawBytes_length]
  | false => rw [inBytes_of_clean tainted, memRead_length]

/-- Settles O39: a STREAM descriptor's completion does not act, so only its bytes and its events are left to say. -/
theorem usbInCompletion : Obligations.UsbInCompletion := by
  intro s d rest wf turn head stream
  refine ⟨inBytes d (dropTurn s), inBytes_length d _, ?_, fun tainted => inBytes_of_tainted tainted,
    fun clean j v inside defined => ?_⟩
  · rw [step_of_usbIn wf turn head, completeDescriptor_idle (completionActs_eq_false (.inr stream)), List.append_assoc]
    rfl
  · rw [inBytes_of_clean clean]
    exact memRead_defined _ _ _ _ _ _ inside defined

/-! ### OUT completions (R304) -/

/-- Settles O40: the completion does not act, and the host's bytes fill the descriptor's half. -/
theorem usbOutCompletion : Obligations.UsbOutCompletion := by
  intro s given d rest wf turn head idle
  have run := step_of_usbOut wf turn head
  rw [completeDescriptor_idle (s := outDelivered given d rest (dropTurn s)) (completionActs_eq_false idle),
    List.append_assoc] at run
  exact ⟨_, suppliedBytes s.draws s.cfg.half given, run, suppliedBytes_length ..,
    fun len => suppliedBytes_of_length len _, rfl, byteAt_memWrite_supplied _ _ _ _ _⟩

/-! ### The initial fill (R303) -/

theorem le32_toNat (b0 b1 b2 b3 : Byte) :
    (le32 b0 b1 b2 b3).toNat = b0.toNat + 2 ^ 8 * b1.toNat + 2 ^ 16 * b2.toNat + 2 ^ 24 * b3.toNat := by
  simp only [le32, toNat_append_eq_add]
  omega

/-- A priming word over defined bytes is those bytes, whatever the draws' numbers. -/
theorem primeWord_of_defined {m : Memory} {k : Nat} (n : Nat) {byte : Nat → Byte}
    (defined : ∀ j < 4, byteAt m (4 * k + j) = some (byte j)) :
    primeWord m n k = le32 (byte 0) (byte 1) (byte 2) (byte 3) := by
  have read : memRead m (n + 4 * k) (4 * k) 4 = (List.range 4).map byte :=
    List.map_congr_left fun j hj => by rw [defined j (List.mem_range.mp hj), Option.getD_some]
  rw [primeWord, read]
  rfl

/-- What an address holds after bytes are written from address 0 on. -/
theorem byteAt_memWrite_zero (m : Memory) (b : List Byte) (a : Nat) :
    byteAt (memWrite m 0 b) a = if a < b.length then b[a]? else byteAt m a := by
  simp [byteAt_memWrite]

/-- A priming word that lies in bytes written from address 0 on, as a number. -/
theorem primeWord_memWrite_toNat (m : Memory) {b : List Byte} (n : Nat) {k : Nat} (long : 4 * k + 4 ≤ b.length) :
    (primeWord (memWrite m 0 b) n k).toNat =
      (b.getD (4 * k) 0).toNat + 2 ^ 8 * (b.getD (4 * k + 1) 0).toNat + 2 ^ 16 * (b.getD (4 * k + 2) 0).toNat +
        2 ^ 24 * (b.getD (4 * k + 3) 0).toNat := by
  rw [primeWord_of_defined n (byte := fun j => b.getD (4 * k + j) 0) fun j hj => ?_, le32_toNat]
  · rfl
  · have inside : 4 * k + j < b.length := by omega
    rw [byteAt_memWrite_zero, if_pos inside, List.getElem?_eq_getElem inside, List.getD_eq_getElem _ _ inside]

theorem halfBase_of_zero (c : Config) {h : Half} (zero : h = 0) : halfBase c h = 0 := by
  rw [zero]
  exact Nat.zero_mul _

/-- The step that completes the current FILL: half 0 begins at address 0. -/
theorem step_of_fill {b : List Byte} (wf : s.cfg.wellFormed = true) (turn : nextTurn s = .usbOut b)
    (len : b.length = s.cfg.half) (pending : s.fillPending = true) (head : s.outq = fillDescriptor s.epoch :: rest) :
    step s = .next
      { s with
        agenda := s.agenda.tail, outq := rest, buf := memWrite s.buf 0 b, draws := s.draws + s.cfg.half + 8, offset := 0
        clkEn := true, fillPending := false
        port := (s.port.set s.cfg.primeSlot0 (some (primeWord (memWrite s.buf 0 b) (s.draws + s.cfg.half) 0))).set
          s.cfg.primeSlot1 (some (primeWord (memWrite s.buf 0 b) (s.draws + s.cfg.half) 1))
        events := s.events ++
          [.hostTx (fillDescriptor s.epoch) b,
            .portWrite s.cfg.primeSlot0 (primeWord (memWrite s.buf 0 b) (s.draws + s.cfg.half) 0),
            .portWrite s.cfg.primeSlot1 (primeWord (memWrite s.buf 0 b) (s.draws + s.cfg.half) 1),
            .clockEnable true, .complete (fillDescriptor s.epoch) true] } := by
  have acts := (completionActs_iff (fillDescriptor s.epoch)
    (outDelivered b (fillDescriptor s.epoch) rest (dropTurn s))).mpr ⟨rfl, rfl, pending⟩
  rw [step_of_usbOut wf turn head, completeDescriptor_acts acts]
  simp [halfBase_of_zero s.cfg (h := (fillDescriptor s.epoch).half) rfl, suppliedBytes_of_length len]

/-- Settles O41: both priming words lie in the half just written, which is at least 8 bytes long. -/
theorem fillCompletion : Obligations.FillCompletion := by
  intro s b rest wf long turn len pending head
  exact ⟨_, _, _, step_of_fill wf turn len pending head, primeWord_memWrite_toNat _ _ (k := 0) (by omega),
    primeWord_memWrite_toNat _ _ (k := 1) (by omega), rfl, fun a => len ▸ byteAt_memWrite_zero s.buf b a⟩

/-! ### The start of the clock in TRANSMIT (R314) -/

theorem changeMode_clkEn_of_tx {m : Mode} (tx : (changeMode m s).mode = .tx) : (changeMode m s).clkEn = false := by
  rw [changeMode_mode] at tx
  rw [tx, changeMode_tx]

theorem Scheduled.clkEn {h : Half} (sched : Scheduled h s t) : t.clkEn = s.clkEn := by
  cases sched with
  | rx _ _ eq | tx _ _ eq => subst eq; rfl

/-- No command starts the clock and ends in TX: only the RECEIVE entry starts it. -/
theorem Effect.clkEn_of_tx {i : Instr} (h : Effect i s t) (off : s.clkEn = false) (tx : t.mode = .tx) :
    t.clkEn = false := by
  cases effect_side h with
  | fault _ _ eq | ready eq | lines _ eq | pass _ _ _ eq => subst eq; exact off
  | change m _ _ eq => subst eq; exact changeMode_clkEn_of_tx tx
  | registers side =>
    obtain ⟨_, _, _, _, _, _, -, rfl⟩ := side
    exact off
  | schedule _ _ _ _ u sched eq => subst eq; exact sched.clkEn.trans off

theorem sequencerStep_clkEn_of_tx (run : sequencerStep s = .next t) (off : s.clkEn = false) (tx : t.mode = .tx) :
    t.clkEn = false := by
  obtain ⟨-, rfl⟩ | ⟨-, w, rest, -, -, ⟨f, rfl⟩ | ⟨i, -, effect⟩⟩ | ⟨-, rfl⟩ := sequencerStep_cases run
  · exact off
  · exact off
  · exact effect.clkEn_of_tx off tx
  · obtain e | ⟨-, sched⟩ | ⟨-, e⟩ := schedStepSecond_cases s
    · rw [e]; exact off
    · exact sched.clkEn.trans off
    · rw [e]; exact off

/-- Completing a STREAM descriptor leaves the clock alone. -/
theorem usbInStep_clkEn (inv : QueueInv s) : (usbInStep s).clkEn = s.clkEn := by
  obtain ⟨-, e⟩ | ⟨d, rest, head, e⟩ := usbInStep_cases s
  · rw [e]
  · obtain ⟨-, stream, -⟩ := inv.in_stream d (by simp [head])
    rw [e, completeDescriptor_idle (completionActs_eq_false (.inr stream))]

/-- The turn that starts the clock in TX is a completion of OUTQ. -/
theorem usbOut_of_clock_start {turn : Turn} (inv : QueueInv s) (run : takeTurn turn s = .next t)
    (off : s.clkEn = false) (on : t.clkEn = true) (tx : t.mode = .tx) :
    ∃ given, turn = .usbOut given ∧ t = usbOutStep given s := by
  have started : t.clkEn ≠ false := by simp [on]
  cases turn with
  | sequencer => exact absurd (sequencerStep_clkEn_of_tx run off tx) started
  | tick samples =>
    rw [takeTurn, tickStep, if_pos off] at run
    cases run
    exact absurd off started
  | usbIn => cases run; exact absurd ((usbInStep_clkEn inv).trans off) started
  | usbOut given => cases run; exact ⟨given, rfl, rfl⟩
  | hostPush w =>
    cases run
    obtain e | ⟨-, e⟩ := hostPushStep_cases w s
    · rw [e] at started; exact absurd off started
    · rw [e] at started; exact absurd off started
  | hostPop => cases run; exact absurd off started
  | hostReset => cases run; exact absurd rfl started

/-- Settles O42: of the completions of OUTQ only that of the pending current FILL acts, and the queues' invariant gives it
half 0. -/
theorem txClockOnlyAfterFill : Obligations.TxClockOnlyAfterFill := by
  intro s t inv run off on tx
  obtain ⟨-, turnRun⟩ := step_next run
  obtain ⟨given, turn, rfl⟩ := usbOut_of_clock_start (s := dropTurn s) { inv with } turnRun off on tx
  obtain ⟨-, e⟩ | ⟨d, rest, head, e⟩ := usbOutStep_cases given (dropTurn s)
  · rw [e] at on
    exact absurd (off.symm.trans on) nofun
  · obtain ⟨epoch, fill, pending, w0, w1, new, -, acted⟩ | ⟨-, idle⟩ :=
      completeDescriptor_cases d (outDelivered given d rest (dropTurn s))
    · have half : d.half = 0 := inv.fill_half d (by rw [show s.outq = d :: rest from head]; simp) fill
      refine ⟨given, d, rest, suppliedBytes s.draws s.cfg.half given, turn, head, fill, half, epoch, pending,
        suppliedBytes_length .., ?_, fun a inside => ?_⟩
      · rw [e, acted]
        simp
      · rw [e, acted]
        simp [halfBase_of_zero s.cfg half, byteAt_memWrite_zero, inside]
    · rw [e, idle] at on
      exact absurd (off.symm.trans on) nofun

end Sys2Proof.Machine
end

section
/-! Faults and the control state (spec/60_exceptions.md R320, R325, R326): every step keeps the control invariants, and a
command that halts the Sequencer has done nothing else. -/

namespace Sys2Proof.Machine

variable {s t : State}

/-- Settles O56: each move keeps both invariants, and dropping the turn writes no field that they read. -/
theorem controlInvariantKept : Obligations.ControlInvariantKept := by
  intro s t faults step2 run
  obtain ⟨-, move⟩ := step_move run
  exact ⟨move.faultInv faults, move.step2Inv step2⟩

theorem changeMode_faultWord (m : Mode) (s : State) : (changeMode m s).faultWord = s.faultWord := by
  cases m with
  | off => rw [changeMode_off]
  | rx => rw [changeMode_rx]
  | tx => rw [changeMode_tx]

/-- The Sequencer goes on: the fault state stands, and SEQ is as it was or at the second step of a SCHED_STEP. -/
structure GoesOn (s t : State) : Prop where
  seq : t.seq = s.seq ∨ t.seq = .step2
  faultCode : t.faultCode = s.faultCode
  faultWord : t.faultWord = s.faultWord

theorem GoesOn.not_halted (h : GoesOn s t) (running : s.seq ≠ .halted) : t.seq ≠ .halted := by
  obtain same | second := h.seq
  · rwa [same]
  · rw [second]; exact nofun

/-- A command faults with its own word, or goes on. -/
theorem Effect.fault_or_goesOn {i : Instr} (h : Effect i s t) : (∃ f, t = raiseFault f (encode i) s) ∨ GoesOn s t := by
  cases h with
  | fault f eq => exact .inl ⟨f, eq⟩
  | ready _ eq | lines _ _ eq | respond _ _ eq | regRead _ _ _ _ eq | regKeep _ _ _ eq | regSet _ _ _ _ eq =>
    subst eq; exact .inr ⟨.inl rfl, rfl, rfl⟩
  | regWrite _ _ _ _ eq => rw [regWrite_eq] at eq; subst eq; exact .inr ⟨.inl rfl, rfl, rfl⟩
  | change _ m _ _ _ _ eq =>
    subst eq
    obtain ⟨seq, code⟩ := changeMode_control (s := s) m
    exact .inr ⟨.inl seq, code, changeMode_faultWord m s⟩
  | flush _ eq =>
    obtain ⟨_, _, _, e, -⟩ := flush_frame (List.range s.cfg.nRegs) s
    rw [e] at eq
    subst eq
    exact .inr ⟨.inl rfl, rfl, rfl⟩
  | schedule _ _ _ _ _ u sched eq =>
    subst eq
    cases sched with
    | rx _ _ eq | tx _ _ eq => subst eq; exact .inr ⟨.inr rfl, rfl, rfl⟩
  | pass _ _ _ _ eq => subst eq; exact .inr ⟨.inr rfl, rfl, rfl⟩

/-- Settles O45: a command that goes on does not halt the Sequencer, so one that halts it has raised its fault. -/
theorem faultsArePrecise : Obligations.FaultsArePrecise := by
  intro i s
  obtain ⟨t, run, effect⟩ := exec_effect i s
  refine ⟨t, run, fun running halted => ?_⟩
  obtain ⟨f, eq⟩ | goesOn := effect.fault_or_goesOn
  · exact ⟨f, eq⟩
  · exact absurd halted (goesOn.not_halted running)

end Sys2Proof.Machine
end

section
/-! The main loop's frame (spec/60_exceptions.md R340): what each command leaves alone, field by field. -/

namespace Sys2Proof.Machine

open Sys2Proof.Laws.ResponseOpcode (producesResponse)

variable {s t : State} {i : Instr}

theorem responseProducing_encode (i : Instr) : responseProducing (encode i) = producesResponse i :=
  responseProducing_of_decode (decodeOfEncode i)

/-- A mode change writes the mode, the lines, the stream's state, the port and OUTQ only. -/
theorem changeMode_frame (m : Mode) (s : State) :
    ∃ mode lines offset phase clkEn fillPending epoch port outq events,
      changeMode m s =
        { s with
          mode := mode, lines := lines, offset := offset, phase := phase, clkEn := clkEn, fillPending := fillPending
          epoch := epoch, port := port, outq := outq, events := events } := by
  cases m with
  | off => exact ⟨_, _, _, _, _, _, _, _, _, _, changeMode_off s⟩
  | rx => exact ⟨_, _, _, _, _, _, _, _, _, _, changeMode_rx s⟩
  | tx => exact ⟨_, _, _, _, _, _, _, _, _, _, changeMode_tx s⟩

/-- What command `i` leaves alone on the way from `s` to `t`. Each field is by default untouched, so that a command's frame
is given by the fields it may write. -/
structure LeavesAlone (i : Instr) (s t : State) : Prop where
  buf : t.buf = s.buf := by rfl
  xrunCount : t.xrunCount = s.xrunCount := by rfl
  cfg : t.cfg = s.cfg := by rfl
  agenda : t.agenda = s.agenda := by rfl
  cmdq : t.cmdq = s.cmdq := by rfl
  cache : (∀ idx val, i ≠ .regWrite idx val ∧ i ≠ .regSet idx val) → t.cache = s.cache := by intros; rfl
  dirty : (∀ idx val, i ≠ .regWrite idx val ∧ i ≠ .regSet idx val) → i ≠ .regFlush → t.dirty = s.dirty := by
    intros; rfl
  chipreg : (∀ idx val, i ≠ .regWrite idx val) → i ≠ .regFlush → t.chipreg = s.chipreg := by intros; rfl
  lines : (∀ c, i ≠ .setMode c ∧ i ≠ .setPower c) → t.lines = s.lines := by intros; rfl
  stream : (∀ c, i ≠ .setMode c) →
    t.mode = s.mode ∧ t.epoch = s.epoch ∧ t.offset = s.offset ∧ t.clkEn = s.clkEn ∧ t.fillPending = s.fillPending ∧
      t.port = s.port := by intros; exact ⟨rfl, rfl, rfl, rfl, rfl, rfl⟩
  bufReady : i ≠ .init → t.bufReady = s.bufReady := by intros; rfl
  queues : (∀ c, i ≠ .setMode c) → i ≠ .schedStep → t.phase = s.phase ∧ t.inq = s.inq ∧ t.outq = s.outq := by
    intros; exact ⟨rfl, rfl, rfl⟩
  draws : (∀ idx, i ≠ .regRead idx) → t.draws = s.draws := by intros; rfl
  rspq : producesResponse i = false → t.rspq = s.rspq := by intros; rfl

theorem Effect.leavesAlone (h : Effect i s t) : LeavesAlone i s t := by
  cases h with
  | fault f eq => subst eq; exact {}
  | ready hi eq => subst eq; exact { bufReady := (absurd hi ·) }
  | lines p hi eq =>
    subst eq
    refine { lines := fun other => ?_ }
    obtain ⟨c, hi, -⟩ | ⟨c, hi⟩ := hi
    · exact absurd hi (other c).1
    · exact absurd hi (other c).2
  | change c m hi _ _ _ eq =>
    obtain ⟨_, _, _, _, _, _, _, _, _, _, e⟩ := changeMode_frame m s
    rw [e] at eq
    subst eq
    exact
      { lines := fun other => absurd hi (other c).1
        stream := fun other => absurd hi (other c)
        queues := fun other => absurd hi (other c) }
  | respond w hi eq =>
    subst eq
    exact { rspq := by rcases hi with rfl | rfl | rfl | rfl <;> exact nofun }
  | regWrite idx val hi _ eq =>
    rw [regWrite_eq] at eq
    subst eq
    exact
      { cache := fun other => absurd hi (other idx val).1
        dirty := fun other => absurd hi (other idx val).1
        chipreg := fun other => absurd hi (other idx val) }
  | regRead idx w hi _ eq =>
    subst eq
    exact { draws := fun other => absurd hi (other idx), rspq := by rw [hi]; exact nofun }
  | regKeep _ _ _ eq => subst eq; exact {}
  | regSet idx val hi _ eq =>
    subst eq
    exact { cache := fun other => absurd hi (other idx val).2, dirty := fun other => absurd hi (other idx val).2 }
  | flush hi eq =>
    obtain ⟨_, _, _, e, -⟩ := flush_frame (List.range s.cfg.nRegs) s
    rw [e] at eq
    subst eq
    exact { dirty := fun _ => (absurd hi ·), chipreg := fun _ => (absurd hi ·) }
  | schedule hi _ _ _ _ u sched eq =>
    subst eq
    cases sched with
    | rx _ _ eq | tx _ _ eq => subst eq; exact { queues := fun _ => (absurd hi ·) }
  | pass _ _ _ _ eq => subst eq; exact {}

/-- Settles O44: a command leaves alone what its effect does not write, and it writes the fault state only to halt. -/
theorem mainLoopFrame : Obligations.MainLoopFrame := by
  intro i s t run
  have effect := exec_next_effect run
  obtain ⟨buf, xrunCount, cfg, agenda, cmdq, cache, dirty, chipreg, lines, stream, bufReady, queues, draws, rspq⟩ :=
    effect.leavesAlone
  have faultState : t.seq = .halted ∨ (t.faultCode = s.faultCode ∧ t.faultWord = s.faultWord) := by
    obtain ⟨f, rfl⟩ | goesOn := effect.fault_or_goesOn
    · exact .inl rfl
    · exact .inr ⟨goesOn.faultCode, goesOn.faultWord⟩
  rw [← responseProducing_encode] at rspq
  exact ⟨fun a => by rw [buf], xrunCount, cfg, agenda, cmdq, cache, dirty, chipreg, lines, stream, bufReady, queues,
    draws, rspq, faultState⟩

end Sys2Proof.Machine
end

section
/-! The clock, the USB agents and the host beside the Sequencer (spec/60_exceptions.md R321, R326, R327, R340): what they write
and record, that they read SEQ nowhere, and that they never fault. -/

namespace Sys2Proof.Machine

variable {s t : State} {turn : Turn}

/-! ### What the interrupt context writes (R340, 42 R305) -/

/-- The events that the clock and the USB agents record. -/
def interruptEvent (e : Event) : Bool :=
  match e with
  | .portWrite _ _ => true
  | .clockEnable _ => true
  | .portIn _ _ => true
  | .portOut _ _ => true
  | .xrun _ _ => true
  | .hostRx _ _ => true
  | .hostTx _ _ => true
  | .complete _ _ => true
  | .cmd _ => false
  | .resp _ => false
  | .lineWrite _ _ => false
  | .busFrame _ _ => false
  | .portClear => false
  | .schedule _ => false
  | .fault _ _ => false

theorem interruptEvent_frame {e : Event} (h : interruptEvent e = true) :
    busOrLineEvent e = false ∧ ∀ d, e ≠ .schedule d := by
  cases e with
  | cmd | resp | lineWrite | busFrame | portClear | schedule | fault => exact absurd h nofun
  | _ => exact ⟨rfl, nofun⟩

/-- The history grows by events of the interrupt context, or not at all. -/
def RecordsInterrupts (s t : State) : Prop := ∃ new, t.events = s.events ++ new ∧ ∀ e ∈ new, interruptEvent e = true

theorem RecordsInterrupts.of_same (events : t.events = s.events) : RecordsInterrupts s t :=
  ⟨[], by rw [events, List.append_nil], nofun⟩

/-- All that a step of the clock or a USB agent writes; it may taint or complete descriptors, and pushes none. -/
def InterruptWrites (s t : State) : Prop :=
  ∃ offset clkEn fillPending xrunCount buf port inq outq draws events,
    t = { s with
          offset := offset, clkEn := clkEn, fillPending := fillPending, xrunCount := xrunCount, buf := buf, port := port
          inq := inq, outq := outq, draws := draws, events := events } ∧
    inq.length ≤ s.inq.length ∧ outq.length ≤ s.outq.length ∧ RecordsInterrupts s t

theorem InterruptWrites.refl (s : State) : InterruptWrites s s :=
  ⟨_, _, _, _, _, _, _, _, _, _, rfl, le_rfl, le_rfl, .of_same rfl⟩

theorem taintHalf_length (q : List Descriptor) (h : Half) : (taintHalf q h).length = q.length := List.length_map _

theorem tickData_interruptWrites (samples : List Byte) (o : Nat) (h : Half) (s : State) :
    InterruptWrites s (tickData samples o h s) := by
  cases mode : s.mode with
  | off => rw [tickData_of_off mode]; exact .refl s
  | rx =>
    rw [tickData_of_rx mode, tickRx_eq]
    refine ⟨_, _, _, _, _, _, _, _, _, _, rfl, ?_, le_rfl, _, List.append_assoc .., ?_⟩
    · split
      · exact (taintHalf_length ..).le
      · exact le_rfl
    · split <;> simp [interruptEvent]
  | tx =>
    rw [tickData_of_tx mode, tickTx_eq]
    refine ⟨_, _, _, _, _, _, _, _, _, _, rfl, le_rfl, le_rfl, _, rfl, ?_⟩
    split <;> simp [interruptEvent]

theorem completeDescriptor_interruptWrites (d : Descriptor) (s : State) :
    InterruptWrites s (completeDescriptor d s) := by
  cases acts : completionActs d s with
  | true =>
    rw [completeDescriptor_acts acts]
    exact ⟨_, _, _, _, _, _, _, _, _, _, rfl, le_rfl, le_rfl, _, rfl, by simp [interruptEvent]⟩
  | false =>
    rw [completeDescriptor_idle acts]
    exact ⟨_, _, _, _, _, _, _, _, _, _, rfl, le_rfl, le_rfl, _, rfl, by simp [interruptEvent]⟩

theorem InterruptWrites.trans {u : State} (first : InterruptWrites s u) (second : InterruptWrites u t) :
    InterruptWrites s t := by
  obtain ⟨_, _, _, _, _, _, _, _, _, _, rfl, inq, outq, new, events, quiet⟩ := first
  obtain ⟨_, _, _, _, _, _, _, _, _, _, rfl, inq', outq', new', events', quiet'⟩ := second
  refine ⟨_, _, _, _, _, _, _, _, _, _, rfl, inq'.trans inq, outq'.trans outq, new ++ new', ?_, ?_⟩
  · rw [events', events, List.append_assoc]
  · exact List.forall_mem_append.mpr ⟨quiet, quiet'⟩

theorem inDelivered_interruptWrites {d : Descriptor} {rest : List Descriptor} (head : s.inq = d :: rest) :
    InterruptWrites s (inDelivered d rest s) :=
  ⟨_, _, _, _, _, _, _, _, _, _, rfl, by rw [head]; exact Nat.le_succ _, le_rfl, _, rfl, by simp [interruptEvent]⟩

theorem outDelivered_interruptWrites (given : List Byte) {d : Descriptor} {rest : List Descriptor}
    (head : s.outq = d :: rest) : InterruptWrites s (outDelivered given d rest s) :=
  ⟨_, _, _, _, _, _, _, _, _, _, rfl, le_rfl, by rw [head]; exact Nat.le_succ _, _, rfl, by simp [interruptEvent]⟩

theorem tickStep_interruptWrites {samples : List Byte} (run : tickStep samples s = .next t) : InterruptWrites s t := by
  obtain rfl | ⟨-, -, rfl⟩ := tickStep_cases run
  · exact .refl _
  · exact (tickData_interruptWrites ..).trans ⟨_, _, _, _, _, _, _, _, _, _, rfl, le_rfl, le_rfl, .of_same rfl⟩

theorem takeTurn_interruptWrites (run : takeTurn turn s = .next t) (interrupt : interruptTurn turn = true) :
    InterruptWrites s t := by
  cases turn with
  | sequencer | hostPush | hostPop | hostReset => exact absurd interrupt nofun
  | tick samples => exact tickStep_interruptWrites run
  | usbIn =>
    cases run
    obtain ⟨-, e⟩ | ⟨d, rest, head, e⟩ := usbInStep_cases s
    · rw [e]; exact .refl s
    · rw [e]; exact (inDelivered_interruptWrites head).trans (completeDescriptor_interruptWrites d _)
  | usbOut given =>
    cases run
    obtain ⟨-, e⟩ | ⟨d, rest, head, e⟩ := usbOutStep_cases given s
    · rw [e]; exact .refl s
    · rw [e]; exact (outDelivered_interruptWrites given head).trans (completeDescriptor_interruptWrites d _)

/-- Settles O43: none of the fields the statement lists is among those the interrupt context writes. -/
theorem interruptContextFrame : Obligations.InterruptContextFrame := by
  intro s t run interrupt
  obtain ⟨-, turnRun⟩ := step_next run
  obtain ⟨_, _, _, _, _, _, _, _, _, _, rfl, inq, outq, new, events, quiet⟩ :=
    takeTurn_interruptWrites turnRun interrupt
  exact ⟨rfl, rfl, rfl, rfl, rfl, rfl, rfl, rfl, rfl, rfl, rfl, rfl, rfl, rfl, inq, outq, new, events,
    fun e he => interruptEvent_frame (quiet e he)⟩

/-! ### The agents beside the Sequencer raise no fault (R321, R326) -/

/-- The fault state stands, and neither a Cmd nor a Fault is recorded. -/
structure FaultStateStands (s t : State) : Prop where
  faultCode : t.faultCode = s.faultCode
  faultWord : t.faultWord = s.faultWord
  records : RecordsInterrupts s t

theorem InterruptWrites.faultStateStands (h : InterruptWrites s t) : FaultStateStands s t := by
  obtain ⟨_, _, _, _, _, _, _, _, _, _, rfl, -, -, records⟩ := h
  exact ⟨rfl, rfl, records⟩

theorem takeTurn_faultStateStands (run : takeTurn turn s = .next t) (agent : turn ≠ .sequencer)
    (noReset : turn ≠ .hostReset) : FaultStateStands s t := by
  cases turn with
  | sequencer => exact absurd rfl agent
  | hostReset => exact absurd rfl noReset
  | tick | usbIn | usbOut => exact (takeTurn_interruptWrites run rfl).faultStateStands
  | hostPush w =>
    cases run
    obtain e | ⟨-, e⟩ := hostPushStep_cases w s
    · rw [e]; exact ⟨rfl, rfl, .of_same rfl⟩
    · rw [e]; exact ⟨rfl, rfl, .of_same rfl⟩
  | hostPop => cases run; exact ⟨rfl, rfl, .of_same rfl⟩

theorem not_mem_fault {new : List Event} (quiet : ∀ e ∈ new, interruptEvent e = true) (f : FaultCode) (w : Word) :
    Event.fault f w ∉ new := fun mem => absurd (quiet _ mem) nofun

theorem not_mem_cmd {new : List Event} (quiet : ∀ e ∈ new, interruptEvent e = true) (w : Word) : Event.cmd w ∉ new :=
  fun mem => absurd (quiet _ mem) nofun

theorem sequencerStep_of_halted (halted : s.seq = .halted) : sequencerStep s = .next s := by
  rw [sequencerStep, halted]

/-- In HALTED the Sequencer's turn changes nothing, and no agent but reset touches the control state. -/
theorem takeTurn_of_halted (run : takeTurn turn s = .next t) (halted : s.seq = .halted) (noReset : turn ≠ .hostReset) :
    t.seq = .halted ∧ FaultStateStands s t ∧ ∃ more, t.cmdq = s.cmdq ++ more := by
  by_cases own : turn = .sequencer
  · rw [own, takeTurn, sequencerStep_of_halted halted] at run
    cases run
    exact ⟨halted, ⟨rfl, rfl, .of_same rfl⟩, [], (List.append_nil _).symm⟩
  · obtain ⟨seq, cmdq, -⟩ := takeTurn_leavesSequencer run own noReset
    exact ⟨seq.trans halted, takeTurn_faultStateStands run own noReset, cmdq⟩

/-- Settles O46: no turn but a reset's leaves HALTED. -/
theorem haltedUntilReset : Obligations.HaltedUntilReset := by
  intro s t run halted noReset
  obtain ⟨-, turnRun⟩ := step_next run
  obtain ⟨seq, ⟨code, word, new, events, quiet⟩, cmdq⟩ := takeTurn_of_halted (s := dropTurn s) turnRun halted noReset
  exact ⟨seq, code, word, cmdq, new, events, not_mem_fault quiet, not_mem_cmd quiet⟩

/-! ### Every turn answers (R321; 10 R55) -/

theorem runWord_answers (w : Word) (s : State) : ∃ t, runWord w s = .next t := by
  cases decoded : decode w with
  | instr i =>
    obtain ⟨t, run, -⟩ := exec_effect i s
    exact ⟨t, (runWord_of_instr decoded).trans run⟩
  | bad e => exact ⟨_, runWord_of_bad decoded⟩

theorem idleStep_answers (s : State) : ∃ t, idleStep s = .next t := by
  cases head : s.cmdq with
  | nil => exact ⟨s, by rw [idleStep, head]⟩
  | cons w rest =>
    cases held : heldBack w s with
    | true => exact ⟨s, idleStep_of_held head held⟩
    | false => rw [idleStep_of_head head held]; exact runWord_answers w _

theorem sequencerStep_answers (s : State) : ∃ t, sequencerStep s = .next t := by
  cases seq : s.seq with
  | idle => rw [sequencerStep_of_idle seq]; exact idleStep_answers s
  | step2 => exact ⟨_, by rw [sequencerStep, seq]⟩
  | halted => exact ⟨s, sequencerStep_of_halted seq⟩

/-- A clock that runs only inside the buffer never stops the model. -/
theorem tickStep_answers (samples : List Byte) (inside : s.clkEn = true → s.offset.toNat < s.cfg.cap) :
    ∃ t, tickStep samples s = .next t := by
  cases on : s.clkEn with
  | false => exact ⟨s, if_pos on⟩
  | true => exact ⟨_, (if_neg (by simp [on])).trans (if_neg (inside on).not_ge)⟩

theorem takeTurn_answers (turn : Turn) (inv : StreamInv s) : ∃ t, takeTurn turn s = .next t := by
  cases turn with
  | sequencer => exact sequencerStep_answers s
  | tick samples => exact tickStep_answers samples fun on => (inv.clock_on on).2.2
  | usbIn | usbOut | hostPush | hostPop | hostReset => exact ⟨_, rfl⟩

/-- Settles O48: the other agents leave SEQ and the fault state, and the stream invariant keeps every enabled tick inside
the buffer. -/
theorem onlyCommandsFault : Obligations.OnlyCommandsFault := by
  refine ⟨fun s t run agent noReset => ?_, fun s wf inv => ?_⟩
  · obtain ⟨-, turnRun⟩ := step_next run
    obtain ⟨seq, -⟩ := takeTurn_leavesSequencer turnRun agent noReset
    obtain ⟨code, word, new, events, quiet⟩ := takeTurn_faultStateStands turnRun agent noReset
    exact ⟨code, word, seq, new, events, not_mem_fault quiet⟩
  · rw [step_eq_of_wf wf]
    exact takeTurn_answers (s := dropTurn s) _ { inv with }

/-! ### The agents beside the Sequencer read SEQ nowhere (R327) -/

variable (q : Seq)

theorem tickData_ignores_seq (samples : List Byte) (o : Nat) (h : Half) (s : State) :
    tickData samples o h { s with seq := q } = { tickData samples o h s with seq := q } := by
  cases mode : s.mode with
  | off => simp only [tickData, mode]
  | rx => simp only [tickData, mode, tickRx_eq]
  | tx => simp only [tickData, mode, tickTx_eq]

theorem tickStep_ignores_seq {samples : List Byte} (run : tickStep samples s = .next t) :
    tickStep samples { s with seq := q } = .next { t with seq := q } := by
  rw [tickStep] at run ⊢
  split at run
  · cases run; exact if_pos ‹_›
  · split at run
    · cases run
    · cases run
      rw [if_neg (by assumption), if_neg (by assumption), tickData_ignores_seq]

theorem completeDescriptor_ignores_seq (d : Descriptor) (s : State) :
    completeDescriptor d { s with seq := q } = { completeDescriptor d s with seq := q } := by
  cases acts : completionActs d s with
  | true => rw [completeDescriptor_acts acts, completeDescriptor_acts (s := { s with seq := q }) acts]
  | false => rw [completeDescriptor_idle acts, completeDescriptor_idle (s := { s with seq := q }) acts]

theorem usbInStep_ignores_seq (s : State) : usbInStep { s with seq := q } = { usbInStep s with seq := q } := by
  cases head : s.inq with
  | nil => simp only [usbInStep, head]
  | cons d rest => simp only [usbInStep, head]; exact completeDescriptor_ignores_seq q d (inDelivered d rest s)

theorem usbOutStep_ignores_seq (given : List Byte) (s : State) :
    usbOutStep given { s with seq := q } = { usbOutStep given s with seq := q } := by
  cases head : s.outq with
  | nil => simp only [usbOutStep, head]
  | cons d rest => simp only [usbOutStep, head]; exact completeDescriptor_ignores_seq q d (outDelivered given d rest s)

theorem hostPushStep_ignores_seq (w : Word) (s : State) :
    hostPushStep w { s with seq := q } = { hostPushStep w s with seq := q } := by
  obtain room | full := lt_or_ge s.cmdq.length s.cfg.cmdDepth
  · rw [hostPushStep_of_room w room, hostPushStep_of_room (s := { s with seq := q }) w room]
  · rw [hostPushStep_of_full w full, hostPushStep_of_full (s := { s with seq := q }) w full]

theorem takeTurn_ignores_seq (run : takeTurn turn s = .next t) (agent : turn ≠ .sequencer)
    (noReset : turn ≠ .hostReset) :
    takeTurn turn { s with seq := q } = .next { t with seq := q } := by
  cases turn with
  | sequencer => exact absurd rfl agent
  | hostReset => exact absurd rfl noReset
  | tick samples => exact tickStep_ignores_seq q run
  | usbIn => cases run; rw [takeTurn, usbInStep_ignores_seq]
  | usbOut given => cases run; rw [takeTurn, usbOutStep_ignores_seq]
  | hostPush w => cases run; rw [takeTurn, hostPushStep_ignores_seq]
  | hostPop => cases run; rfl

/-- Settles O47: whose turn it is and the turn itself read the same with another SEQ. -/
theorem otherAgentsIgnoreSeq : Obligations.OtherAgentsIgnoreSeq := by
  intro s t q agent noReset run
  obtain ⟨wf, turnRun⟩ := step_next run
  exact (step_eq_of_wf (s := { s with seq := q }) wf).trans (takeTurn_ignores_seq q turnRun agent noReset)

end Sys2Proof.Machine
end

section
/-! Reset (spec/70_reset_and_hazards.md R373): the turn of a reset, and the four queries in the state it leaves. -/

namespace Sys2Proof.Machine

variable {s : State}

theorem step_hostReset (wf : s.cfg.wellFormed = true) (turn : nextTurn s = .hostReset) :
    step s = .next (resetBlock (dropTurn s)) := by
  rw [step_eq_of_wf wf, turn, takeTurn]

/-- With every field it shows at its reset value, GET_STATUS's word is zero (30 R147). -/
theorem statusResponse_reset : statusResponse (statusCount 0) .off false false false 0 0 = 0 := by decide

theorem modeResponse_off : modeResponse .off = 0 := by decide

theorem powerResponse_shutdown : powerResponse 0 = 0 := by decide

theorem startReady_resetBlock : startReady (resetBlock s) = false := rfl

/-- After a reset each of the four queries responds 0. -/
theorem exec_query_resetBlock {i : Instr} (query : i ∈ [Instr.getStatus, .getMode, .getPower, .queryStart]) :
    exec i (resetBlock s) = .next (respondedState 0 (resetBlock s)) := by
  have responds {w : Word} (eq : exec i (resetBlock s) = .next (respond w (resetBlock s))) (zero : w = 0) :
      exec i (resetBlock s) = .next (respondedState 0 (resetBlock s)) := zero ▸ eq
  simp only [List.mem_cons, List.not_mem_nil, or_false] at query
  obtain rfl | rfl | rfl | rfl := query
  · exact responds rfl statusResponse_reset
  · exact responds rfl modeResponse_off
  · exact responds rfl powerResponse_shutdown
  · exact responds rfl (congrArg queryResponse startReady_resetBlock)

/-- Settles O50: the turn resets the block, every field is read off the reset state, and the four queries answer from it. -/
theorem resetResult : Obligations.ResetResult := fun s wf turn =>
  ⟨resetBlock (dropTurn s), step_hostReset wf turn, rfl, rfl, rfl, rfl, rfl, rfl, rfl, rfl, rfl, rfl, rfl, rfl, rfl, rfl,
    fun _ => rfl, rfl, rfl, rfl, rfl, rfl, rfl, rfl, fun _ query => exec_query_resetBlock query⟩

end Sys2Proof.Machine
end
